-- ==== Sys2Proof/Word.lean ====
section
/-! DEFINITION. The widths of the block: a byte, an eight-byte device address, a nine-byte scratchpad. -/

namespace Sys2Proof

/-- One register of the host port, one byte on the line (00_scope.md R11: bit 0 is the least significant). -/
abbrev Byte := BitVec 8

/-- A device address: byte 0 the family code, bytes 1 to 6 the serial, byte 7 a CRC-8 (20_memory.md R43). -/
abbrev Address := Vector Byte 8

/-- A scratchpad snapshot, elements 0 to 8 in the order of 20_memory.md R44. -/
abbrev Pad := Vector Byte 9

end Sys2Proof
end

