-- ==== Sys2Proof/Config.lean ====
section
/-! DEFINITION. What an implementation fixes (00_scope.md R7 to R10) and the values the spec leaves free. -/

namespace Sys2Proof

/-- The nominal durations of 00_scope.md R7, in microseconds. The spec gives no tolerance (D11), so they are
parameters: a claim that does not name a value holds for all of them. -/
structure Durations where
  w1Low : Nat
  w1Rel : Nat
  w0Low : Nat
  w0Rel : Nat
  rLow : Nat
  rWait : Nat
  rPad : Nat
  wByteGap : Nat
  rBitGap : Nat
  rstLow : Nat
  rstWait : Nat
  rstPad : Nat
deriving DecidableEq, Repr

/-- The record `Params` of 00_scope.md section 3: what a model takes as configuration. -/
structure Params where
  dur : Durations
  /-- R8, the source's 0xF0. -/
  cmdSearchRom : Byte
  /-- R8, the source's 0xEC. -/
  cmdSearchAlarm : Byte
  /-- R8, no value in the source (D25). -/
  cmdMatchRom : Byte
  cmdReadScratchpad : Byte
  cmdWriteScratchpad : Byte
  cmdSkipRom : Byte
  cmdConvertT : Byte
  /-- R9, the four configuration-byte patterns, no value in the source (D26). -/
  cfg9 : Byte
  cfg10 : Byte
  cfg11 : Byte
  cfg12 : Byte
  /-- 70_reset_and_hazards.md R200: a command without bus activity takes "a few clock cycles, platform matter".
  The number of sequencer ticks it keeps BUSY set (log entry 20). -/
  computeTicks : Nat
deriving DecidableEq, Repr

/-- 00_scope.md R7: every nominal value as the spec's table gives it. -/
def Durations.nominal : Durations where
  w1Low := 6
  w1Rel := 64
  w0Low := 60
  w0Rel := 10
  rLow := 6
  rWait := 9
  rPad := 55
  wByteGap := 100
  rBitGap := 15
  rstLow := 480
  rstWait := 70
  rstPad := 410

/-- 00_scope.md R7 to R9 with the spec's own defaults. 0xF0 and 0xEC are the source's; the five other wire bytes and the
four patterns are PRESUMED (the spec marks them as general knowledge, log entry 4); `computeTicks` is a DESIGN CHOICE
(log entry 20). -/
def Params.nominal : Params where
  dur := Durations.nominal
  cmdSearchRom := 0xF0
  cmdSearchAlarm := 0xEC
  cmdMatchRom := 0x55
  cmdReadScratchpad := 0xBE
  cmdWriteScratchpad := 0x4E
  cmdSkipRom := 0xCC
  cmdConvertT := 0x44
  cfg9 := 0x1F
  cfg10 := 0x3F
  cfg11 := 0x5F
  cfg12 := 0x7F
  computeTicks := 4

/-- 00_scope.md R10: the two sentinel temperatures of the host, "named by the source and given no value; OPEN parameters of
the host sequence". A claim holds for every value of them that 46_host_sequences.md R160 admits (`Machine.SentinelsWf`, log entry
23). -/
structure Sentinels where
  /-- `DEVICE_DISCONNECTED_C` -/
  disconnectedC : ℚ
  /-- `DEVICE_DISCONNECTED_F` -/
  disconnectedF : ℚ
deriving DecidableEq, Repr

namespace Config

/-- 43_crc8.md R116, entries 0 to 15 (indexed by the low nibble) and 16 to 31 (by the high nibble); the CRC table ROM of
10_state.md R31. -/
def crcTable : Vector Byte 32 :=
  #v[0x00, 0x5E, 0xBC, 0xE2, 0x61, 0x3F, 0xDD, 0x83, 0xC2, 0x9C, 0x7E, 0x20, 0xA3, 0xFD, 0x1F, 0x41,
     0x00, 0x9D, 0x23, 0xBE, 0x46, 0xDB, 0x65, 0xF8, 0x8C, 0x11, 0xAF, 0x32, 0xCA, 0x57, 0xE9, 0x74]

/-- 00_scope.md R10, `RAW_DISCONNECTED`: the source's sentinel, -55 degrees Celsius. -/
def rawDisconnected : Int := -7040

/-- The largest raw temperature: a signed 16-bit number (46_host_sequences.md R158) that is a multiple of 8 (R159). -/
def rawMax : Int := 32760

/-- Free value: the answer of the bus number `k` of those nobody fixes (20_memory.md R42, "the answers `p` and `b` are
inputs to the step, free under every rule of this spec"; log entry 2). -/
opaque freeAnswer : Nat → Bool

/-- Free value: what a host read of a register other than STATUS returns while BUSY = 1 (10_state.md R35, "returns an
unspecified value"; log entry 5). -/
opaque freeRead : Nat → Byte

/-- Free value: the conversion timeout for a number that is no resolution (46_host_sequences.md R156: "`res` in {9, 10, 11,
12}"; log entry 22). -/
opaque otherConversionTimeout : Nat → Nat

/-- Free value: whether the host's address parser takes upper-case digits (46_host_sequences.md R161, "Whether upper-case
digits are accepted is not stated"; log entry 17). -/
opaque acceptsUpperHex : Bool

end Config

end Sys2Proof
end

