-- ==== Sys2Proof/Syntax.lean ====
section
/-! DEFINITION. The sixteen commands of the opcode table, and the listing syntax of 30_encoding.md R80: register names and
statements. -/

namespace Sys2Proof

/-- The commands of 30_encoding.md R75. A command has no operand fields (R71): its operands are fixed registers (R77). -/
inductive Instr where
  | writeBit
  | readBit
  | writeByte
  | readByte
  | busReset
  | crcInit
  | crcByte
  | checkAddr
  | checkSp
  | searchReset
  | searchRom
  | searchAlarm
  | readScratchpad
  | writeScratchpad
  | isConnected
  | setResolution
deriving DecidableEq, Repr

/-- A register name of 10_state.md R14, with an index for the arrays (30_encoding.md R80). -/
inductive RegName where
  | cmd
  | status
  | err
  | data
  | crc
  | ld
  | lfd
  | ldf
  | romNo (k : Nat)
  | addr (k : Nat)
  | sp (k : Nat)
  | wth
  | wtl
  | wcfg
deriving DecidableEq, Repr

/-- One statement of a listing (30_encoding.md R80). -/
inductive Stmt where
  /-- `WR <reg>, <value>` -/
  | wr (r : RegName) (v : Nat)
  /-- `RD <reg>` -/
  | rd (r : RegName)
  /-- a bare mnemonic: write the opcode to CMD and wait for BUSY = 0 -/
  | run (i : Instr)
  /-- `LDADDR <16 hex digits>` -/
  | ldaddr (digits : List Char)
deriving DecidableEq, Repr

end Sys2Proof
end

