-- ==== Sys2Proof/WellFormed.lean ====
section
/-! DEFINITION. Which terms of the syntax, and which configurations, the spec admits. -/

namespace Sys2Proof

/-- 30_encoding.md R71, R79: a command is its opcode and nothing else, so no command is ill-formed. -/
def Instr.wf : Instr → Bool
  | .writeBit | .readBit | .writeByte | .readByte | .busReset | .crcInit | .crcByte | .checkAddr | .checkSp
  | .searchReset | .searchRom | .searchAlarm | .readScratchpad | .writeScratchpad | .isConnected | .setResolution => true

/-- 10_state.md R14: the arrays are `ROM_NO[0..7]`, `ADDR[0..7]` and `SP[0..8]`. -/
def RegName.wf : RegName → Bool
  | .romNo k => decide (k < 8)
  | .addr k => decide (k < 8)
  | .sp k => decide (k < 9)
  | .cmd | .status | .err | .data | .crc | .ld | .lfd | .ldf | .wth | .wtl | .wcfg => true

/-- 30_encoding.md R70, R80: a written value has 8 bits; `LDADDR` takes 16 digits. -/
def Stmt.wf : Stmt → Bool
  | .wr r v => r.wf && decide (v < 256)
  | .rd r => r.wf
  | .run i => i.wf
  | .ldaddr digits => decide (digits.length = 16)

/-- 00_scope.md R9: "The only property the rules of 45_scratchpad.md need is that the four are 8-bit values and pairwise
distinct." -/
def Params.wf (p : Params) : Bool :=
  decide ([p.cfg9, p.cfg10, p.cfg11, p.cfg12].Nodup)

end Sys2Proof
end

