-- ==== Sys2Proof/Decode.lean ====
section
/-! DEFINITION. 30_encoding.md R71, R75, R76: from the command byte to the command and back, and 10_state.md R14: from a
register's name to its address and back. -/

namespace Sys2Proof

/-- Why bytes are no command. -/
inductive DecodeError where
  /-- No byte at all. -/
  | empty
  /-- 30_encoding.md R76: "Opcode 0x00 and opcodes 0x11 to 0xFF name no command." -/
  | reservedOpcode (op : Byte)
deriving DecidableEq, Repr

/-- 30_encoding.md R75, the opcode map, and R71: "A decoder matches the whole byte". -/
def decodeOpcode (op : Byte) : Except DecodeError Instr :=
  match op.toNat with
  | 0x01 => .ok .writeBit
  | 0x02 => .ok .readBit
  | 0x03 => .ok .writeByte
  | 0x04 => .ok .readByte
  | 0x05 => .ok .busReset
  | 0x06 => .ok .crcInit
  | 0x07 => .ok .crcByte
  | 0x08 => .ok .checkAddr
  | 0x09 => .ok .checkSp
  | 0x0A => .ok .searchReset
  | 0x0B => .ok .searchRom
  | 0x0C => .ok .searchAlarm
  | 0x0D => .ok .readScratchpad
  | 0x0E => .ok .writeScratchpad
  | 0x0F => .ok .isConnected
  | 0x10 => .ok .setResolution
  | _ => .error (.reservedOpcode op)

/-- Total on any bytes: the command of the first byte and the bytes after it (30_encoding.md R79: every command is one
byte). -/
def decode : List Byte → Except DecodeError (Instr × List Byte)
  | [] => .error .empty
  | op :: rest =>
    match decodeOpcode op with
    | .ok i => .ok (i, rest)
    | .error e => .error e

/-- 30_encoding.md R75: the opcode of a command. -/
def Instr.opcode : Instr → Byte
  | .writeBit => 0x01
  | .readBit => 0x02
  | .writeByte => 0x03
  | .readByte => 0x04
  | .busReset => 0x05
  | .crcInit => 0x06
  | .crcByte => 0x07
  | .checkAddr => 0x08
  | .checkSp => 0x09
  | .searchReset => 0x0A
  | .searchRom => 0x0B
  | .searchAlarm => 0x0C
  | .readScratchpad => 0x0D
  | .writeScratchpad => 0x0E
  | .isConnected => 0x0F
  | .setResolution => 0x10

/-- The bytes of a command (30_encoding.md R79). -/
def encode (i : Instr) : List Byte := [i.opcode]

/-- The bytes of a word numbered as spec/opcode_table.json numbers it: bit 0 the least significant of the first byte. -/
def wordBytes (nbits w : Nat) : List Byte :=
  (List.range (nbits / 8)).map fun k => BitVec.ofNat 8 (w >>> (8 * k))

/-- The command the decoder reads from a word of the opcode table. -/
def decodeTableWord (nbits w : Nat) : Option Instr :=
  match decode (wordBytes nbits w) with
  | .ok (i, _) => some i
  | .error _ => none

/-- 10_state.md R14: the address of a register. -/
def RegName.address : RegName → BitVec 6
  | .cmd => 0x00
  | .status => 0x01
  | .err => 0x02
  | .data => 0x03
  | .crc => 0x04
  | .ld => 0x05
  | .lfd => 0x06
  | .ldf => 0x07
  | .romNo k => BitVec.ofNat 6 (0x08 + k)
  | .addr k => BitVec.ofNat 6 (0x10 + k)
  | .sp k => BitVec.ofNat 6 (0x18 + k)
  | .wth => 0x21
  | .wtl => 0x22
  | .wcfg => 0x23

/-- 10_state.md R14: the register at an address, none at 0x24 to 0x3F (R29). -/
def regAt (a : BitVec 6) : Option RegName :=
  match a.toNat with
  | 0x00 => some .cmd
  | 0x01 => some .status
  | 0x02 => some .err
  | 0x03 => some .data
  | 0x04 => some .crc
  | 0x05 => some .ld
  | 0x06 => some .lfd
  | 0x07 => some .ldf
  | 0x21 => some .wth
  | 0x22 => some .wtl
  | 0x23 => some .wcfg
  | n =>
    if n < 0x10 then some (.romNo (n - 0x08))
    else if n < 0x18 then some (.addr (n - 0x10))
    else if n < 0x21 then some (.sp (n - 0x18))
    else none

end Sys2Proof
end

