-- ==== Sys2Proof/Machine/State.lean ====
section
/-! DEFINITION. The state of the block (10_state.md), of the line it drives and of the bus behind the line, the host port's
pending accesses, and the value of all of it right after hardware reset. -/

namespace Sys2Proof.Machine

/-- 60_exceptions.md R170: the classes of error that `ERR` holds. Codes 6 and 7 are "never produced". -/
inductive ErrCode where
  | none
  | busAbsent
  | searchAborted
  | integrityFailure
  /-- "never by the block; host parser only" -/
  | malformedInput
  | illegalCommand
deriving DecidableEq, Repr

/-- The stored flags of 10_state.md R17. BUSY is not here: it is `seq` being not idle (R20). -/
structure Flags where
  presence : Bool
  ok : Bool
  crcOk : Bool
  nonzero : Bool
  /-- sticky: "cleared only by hardware reset" -/
  fault : Bool
deriving DecidableEq, Repr

/-! ## The bus -/

/-- The three exchanges of 20_memory.md R42 with the bit each carried: the elements of the observable trace. -/
inductive Exchange where
  /-- `BusReset()` answered `p` -/
  | reset (p : Bool)
  /-- `BusWrite(b)` -/
  | write (b : Bool)
  /-- `BusRead()` answered `b` -/
  | read (b : Bool)
deriving DecidableEq, Repr

/-- Where a device stands within one search position: 20_memory.md R47, the `phase` of `SEARCH(n, phase)`. -/
inductive SearchPhase where
  | bit
  | complement
  | direction
deriving DecidableEq, Repr

/-- The modes of a device of the reference model (20_memory.md R47). A collector holds the bits received so far, first one
first. -/
inductive DevMode where
  | idle
  | romCmd (got : List Bool)
  | search (n : Nat) (phase : SearchPhase)
  | matching (n : Nat)
  | func (got : List Bool)
  | readSp (k : Nat)
  | writeSp (k : Nat)
deriving DecidableEq, Repr

/-- A device of the reference model (20_memory.md R47). Not part of the block: log entry 15. -/
structure Device where
  rom : Address
  sp : Pad
  alarm : Bool
  mode : DevMode
deriving DecidableEq, Repr

/-- What answers on the line. `free script drawn` is the environment of 20_memory.md R42 and R45, about which nothing is
assumed: its answers are the script's, then free values, of which `drawn` have been used. `devices` is the reference model
of R47. -/
inductive Bus where
  | free (script : List Bool) (drawn : Nat)
  | devices (ds : List Device)
deriving DecidableEq, Repr

/-- The line port and what stands behind it: `ow_oe` (10_state.md R12), the nominal line time so far in microseconds (the
model's own, 70_reset_and_hazards.md R200), the bus, and the trace of exchanges, first one first (20_memory.md R42). -/
structure Line where
  owOe : Bool
  elapsed : Nat
  bus : Bus
  trace : List Exchange
deriving DecidableEq, Repr

/-- The micro-operations of 40_signal_primitives.md R90 to R93. -/
inductive MicroOp where
  | driveLow
  | release
  | sample
  | delay (t : Nat)
deriving DecidableEq, Repr

/-- An exchange being performed, before its answer is known: `Reset()`, `WriteBit(b)` or `ReadBit()`. -/
inductive Slot where
  | reset
  | write (b : Bool)
  | read
deriving DecidableEq, Repr

/-! ## The sequencer -/

/-- What the exchange in progress is for: the position of `SEQ` within its command (10_state.md R20, 44_search.md R125,
30_encoding.md R74). -/
inductive Phase where
  /-- a command that causes no bus exchange -/
  | compute
  /-- the only slot of WRITE_BIT or READ_BIT -/
  | bit
  /-- the only byte of WRITE_BYTE or READ_BYTE -/
  | byte
  /-- the reset of BUS_RESET -/
  | presence
  | searchReset
  | searchCommand
  | searchId
  | searchCmp
  | searchDir
  | readReset
  | readMatch
  | readAddr
  | readCommand
  | readData
  | readClose
  | writeReset
  | writeMatch
  | writeAddr
  | writeCommand
  | writeData
  | writeClose
deriving DecidableEq, Repr

/-- 10_state.md R20 and R30: the command in progress, the position within it, and the registers that are live only while a
command runs. -/
structure SeqRegs where
  cmd : Instr
  phase : Phase
  n : BitVec 7
  lastZero : BitVec 7
  idBit : Bool
  cmpBit : Bool
  dir : Bool
  bitCount : BitVec 3
  byteCount : BitVec 4
  shift : Byte
  /-- the microsecond down-counter behind DELAY (40_signal_primitives.md R93) -/
  timer : Nat
  /-- the exchange in progress, none once it is made and for a command that causes no exchange -/
  slot : Option Slot
  /-- the micro-operations still to come: the exchange's own, then those of its settle delay -/
  ops : List MicroOp
  /-- the settle DELAY that follows the exchange (41_transport.md R102, R103), 0 for none or once it has begun -/
  settle : Nat
  /-- the level sampled in it -/
  level : Bool
deriving DecidableEq, Repr

/-- 10_state.md R20: `SEQ` is IDLE when no command runs. -/
inductive Seq where
  | idle
  | run (r : SeqRegs)
deriving DecidableEq, Repr

/-! ## The host port -/

/-- What the outside can do to the block at one moment: the two accesses of 10_state.md R13, a change of the reset input
(70_reset_and_hazards.md R190: true asserts it, false releases it), and a move of the environment (20_memory.md R52: "a device
being plugged in"). -/
inductive PortOp where
  | write (a : BitVec 6) (v : Byte)
  | read (a : BitVec 6)
  | resetInput (asserted : Bool)
  | busChange (b : Bus)
deriving DecidableEq, Repr

/-- One event and when the next one comes. `hold = none`: the outside waits until BUSY = 0 (70_reset_and_hazards.md R193).
`hold = some k`: the next event comes `k` sequencer ticks later, whether or not a command still runs (log entry 11). -/
structure PortEvent where
  op : PortOp
  hold : Option Nat
deriving DecidableEq, Repr

/-- Everything the spec gives the machine, with its environment and its configuration. -/
structure State where
  /-- 10_state.md R15 -/
  cmd : Byte
  /-- R17 -/
  flags : Flags
  /-- R18 -/
  err : ErrCode
  /-- R19 -/
  data : Byte
  /-- R21 -/
  crc : Byte
  /-- R22, 7 bits -/
  ld : BitVec 7
  /-- R23, 4 bits -/
  lfd : BitVec 4
  /-- R24, 1 bit -/
  ldf : Bool
  /-- R25 -/
  romNo : Address
  /-- R26 -/
  addr : Address
  /-- R27 -/
  sp : Pad
  /-- R28 -/
  wth : Byte
  wtl : Byte
  wcfg : Byte
  /-- R20, R30 -/
  seq : Seq
  /-- 70_reset_and_hazards.md R190, the level of the reset input: true while it is asserted -/
  rstIn : Bool
  /-- R12, and the bus behind it -/
  line : Line
  /-- R13, the read value of the host port -/
  rdata : Byte
  /-- the events still to come at the host port, the next one first -/
  hostQ : List PortEvent
  /-- ticks until the next event may come while a command runs; none: not before BUSY = 0 -/
  hostWait : Option Nat
  /-- how many unspecified reads have been answered (R35) -/
  freeReads : Nat
  /-- 00_scope.md section 3, the configuration -/
  params : Params
deriving DecidableEq, Repr

/-- Why a step could stop with a fault: never. 60_exceptions.md R176 has no trap, R94 gives the micro-operations "no failure
outcome", R179 has no hang; host misuse is recorded in STATUS.FAULT and the block goes on (R175, log entry 7). -/
inductive Fault where
deriving DecidableEq, Repr

/-- Why a step could be refused. -/
inductive Refusal where
  /-- Raised only by an arm of `exec` whose command has no meaning yet; safe. No arm does. -/
  | notModelled (mnemonic : String)
deriving DecidableEq, Repr

/-- 10_state.md R34: the result flags and FAULT are 0. -/
def Flags.zero : Flags where
  presence := false
  ok := false
  crcOk := false
  nonzero := false
  fault := false

/-- 10_state.md R34: the line is released. The bus is one about which nothing is known and nothing has happened on it
(DESIGN CHOICE, log entry 3). -/
def Line.released : Line where
  owOe := false
  elapsed := 0
  bus := .free [] 0
  trace := []

/-- 10_state.md R34, 70_reset_and_hazards.md R190: every host-visible register reads 0x00, the line is released, SEQ is
IDLE, and the reset input has been released. The fields that are not the block's are as log entries 3, 4, 5, 8 and 10 name them. -/
def State.reset : State where
  cmd := 0x00
  flags := Flags.zero
  err := .none
  data := 0x00
  crc := 0x00
  ld := 0
  lfd := 0
  ldf := false
  romNo := #v[0, 0, 0, 0, 0, 0, 0, 0]
  addr := #v[0, 0, 0, 0, 0, 0, 0, 0]
  sp := #v[0, 0, 0, 0, 0, 0, 0, 0, 0]
  wth := 0x00
  wtl := 0x00
  wcfg := 0x00
  seq := .idle
  rstIn := false
  line := Line.released
  rdata := 0x00
  hostQ := []
  hostWait := none
  freeReads := 0
  params := Params.nominal

end Sys2Proof.Machine
end

