-- ==== Sys2Proof/Machine/Operands.lean ====
section
/-! DEFINITION. The operand forms: bits of a byte in wire order, bit positions of a device address, the resolution operand. -/

namespace Sys2Proof.Machine

/-- 20_memory.md R48: a byte's bits in the order they travel, bit 0 first. -/
def byteBits (v : Byte) : List Bool :=
  [v.getLsbD 0, v.getLsbD 1, v.getLsbD 2, v.getLsbD 3, v.getLsbD 4, v.getLsbD 5, v.getLsbD 6, v.getLsbD 7]

/-- 00_scope.md R11, `zext_8` of one bit. -/
def bitByte (b : Bool) : Byte := if b then 0x01 else 0x00

/-- The byte whose bits are the list's, bit 0 the list's first (20_memory.md R48). -/
def bitsByte : List Bool → Byte
  | [] => 0x00
  | b :: bs => (bitsByte bs <<< 1) ||| bitByte b

/-- 00_scope.md R11, `x[i] <- v` for a bit of a byte. -/
def setBit (v : Byte) (i : Nat) (d : Bool) : Byte :=
  if d then v ||| ((1 : Byte) <<< i) else v &&& ~~~((1 : Byte) <<< i)

/-- 10_state.md R16, `abit(A, n)`: "Bit position `n` of the search, `1 <= n <= 64`, is bit `(n-1) mod 8` of byte
`(n-1) div 8`". -/
def abit (A : Address) (n : Nat) : Bool := (A.getD ((n - 1) / 8) 0).getLsbD ((n - 1) % 8)

/-- 10_state.md R16, `abit(A, n) <- d`. -/
def setAbit (A : Address) (n : Nat) (d : Bool) : Address :=
  A.setIfInBounds ((n - 1) / 8) (setBit (A.getD ((n - 1) / 8) 0) ((n - 1) % 8) d)

/-- 30_encoding.md R78: the requested resolution, unsigned, clamped to 9 to 12. -/
def clampResolution (r : Byte) : Byte := if r < 9 then 9 else if 12 < r then 12 else r

/-- 30_encoding.md R78, 00_scope.md R9: the configuration-byte pattern of a clamped resolution. -/
def resolutionPattern (p : Params) (r : Byte) : Byte :=
  if r = 9 then p.cfg9 else if r = 10 then p.cfg10 else if r = 11 then p.cfg11 else p.cfg12

/-- 46_host_sequences.md R156: the conversion timeout of a resolution, in milliseconds. The rule's input is one of 9 to 12; for
any other number it states no timeout, and the value is free (DESIGN CHOICE, log entry 22). -/
def conversionTimeout (res : Nat) : Nat :=
  if res = 9 then 94 else if res = 10 then 188 else if res = 11 then 375 else if res = 12 then 750
  else Config.otherConversionTimeout res

end Sys2Proof.Machine
end

