-- ==== Sys2Proof/Machine/Flags.lean ====
section
/-! DEFINITION. What the result flags and the CRC register are computed by: CRC-8 (43_crc8.md R115 to R118), the all-zero
test, the STATUS byte (10_state.md R17) and the error codes (60_exceptions.md R170). -/

namespace Sys2Proof.Machine

/-- 43_crc8.md R115. -/
def crc8Step (c b : Byte) : Byte :=
  let x := c ^^^ b
  Config.crcTable.getD (x &&& 0x0F).toNat 0 ^^^ Config.crcTable.getD (16 + (x >>> 4).toNat) 0

/-- 43_crc8.md R117: the accumulator starts at 0x00. -/
def crc8 (l : List Byte) : Byte := l.foldl crc8Step 0x00

/-- One of the eight rounds of 43_crc8.md R118. -/
def crc8BitRound (x : Byte) : Byte := if x.getLsbD 0 then (x >>> 1) ^^^ 0x8C else x >>> 1

/-- 43_crc8.md R118, the bit-serial form of one step. -/
def crc8BitsStep (c b : Byte) : Byte := Nat.iterate crc8BitRound 8 (c ^^^ b)

/-- 43_crc8.md R121: the CRC-8 of bytes 0 to 6 of an address. -/
def addressCrc (A : Address) : Byte := crc8 (A.toList.take 7)

/-- 43_crc8.md R122: the CRC-8 of bytes 0 to 7 of a scratchpad. -/
def padCrc (P : Pad) : Byte := crc8 (P.toList.take 8)

/-- 43_crc8.md R122: "some SP[k] != 0x00 for k in 0..8". -/
def padNonzero (P : Pad) : Bool := P.toList.any fun v => v != 0x00

/-- 60_exceptions.md R170: the code of an error. -/
def ErrCode.code : ErrCode → BitVec 3
  | .none => 0
  | .busAbsent => 1
  | .searchAborted => 2
  | .integrityFailure => 3
  | .malformedInput => 4
  | .illegalCommand => 5

/-- 10_state.md R17, R20: BUSY is 1 while a command is executing. -/
def Seq.busy : Seq → Bool
  | .idle => false
  | .run _ => true

/-- 10_state.md R17: bit 0 BUSY, bit 1 PRESENCE, bit 2 OK, bit 3 CRC_OK, bit 4 NONZERO, bits 5 and 6 zero, bit 7 FAULT. -/
def State.status (s : State) : Byte :=
  bitsByte [s.seq.busy, s.flags.presence, s.flags.ok, s.flags.crcOk, s.flags.nonzero, false, false, s.flags.fault]

/-- 10_state.md R17: at a launch "PRESENCE, OK, CRC_OK and NONZERO are cleared to 0"; FAULT is sticky. -/
def Flags.launched (f : Flags) : Flags := { Flags.zero with fault := f.fault }

end Sys2Proof.Machine
end

