-- ==== Sys2Proof/Machine/Devices.lean ====
section
/-! DEFINITION. What answers on the line: the free bus of 20_memory.md R42, R45 and the reference device model of R47. Not part
of the block (log entries 2 and 15). -/

namespace Sys2Proof.Machine

/-- 20_memory.md R47, `BusReset()`: the device goes to `ROMCMD` with an empty collector. -/
def Device.onReset (d : Device) : Device := { d with mode := .romCmd [] }

/-- 20_memory.md R47, `ROMCMD` at the eighth bit. -/
def Device.romCommand (p : Params) (c : Byte) (d : Device) : DevMode :=
  if c = p.cmdSearchRom then .search 1 .bit
  else if c = p.cmdSearchAlarm ∧ d.alarm = true then .search 1 .bit
  else if c = p.cmdMatchRom then .matching 1
  else if c = p.cmdSkipRom then .func []
  else .idle

/-- 20_memory.md R47, `FUNC` at the eighth bit. -/
def funcCommand (p : Params) (c : Byte) : DevMode :=
  if c = p.cmdReadScratchpad then .readSp 0
  else if c = p.cmdWriteScratchpad then .writeSp 0
  else .idle

/-- 20_memory.md R47: after bit `k` of 24 has been written; at the last one byte 8 is recomputed. -/
def Device.written (d : Device) (k : Nat) (b : Bool) : Device :=
  let sp := d.sp.setIfInBounds (2 + k / 8) (setBit (d.sp.getD (2 + k / 8) 0) (k % 8) b)
  if k = 23 then { d with sp := sp.setIfInBounds 8 (padCrc sp), mode := .idle }
  else { d with sp := sp, mode := .writeSp (k + 1) }

/-- 20_memory.md R47, `BusWrite(b)` on one device. -/
def Device.onWrite (p : Params) (b : Bool) (d : Device) : Device :=
  match d.mode with
  | .idle => d
  | .romCmd got =>
    if got.length = 7 then { d with mode := d.romCommand p (bitsByte (got ++ [b])) }
    else { d with mode := .romCmd (got ++ [b]) }
  | .search n .direction =>
    if b = abit d.rom n then { d with mode := if n = 64 then .func [] else .search (n + 1) .bit }
    else { d with mode := .idle }
  | .search _ .bit => { d with mode := .idle }
  | .search _ .complement => { d with mode := .idle }
  | .matching n =>
    if b = abit d.rom n then { d with mode := if n = 64 then .func [] else .matching (n + 1) }
    else { d with mode := .idle }
  | .func got =>
    if got.length = 7 then { d with mode := funcCommand p (bitsByte (got ++ [b])) }
    else { d with mode := .func (got ++ [b]) }
  | .readSp _ => d
  | .writeSp k => d.written k b

/-- 20_memory.md R47, `BusRead()`: the bit one device offers, 1 unless stated. -/
def Device.offer (d : Device) : Bool :=
  match d.mode with
  | .search n .bit => abit d.rom n
  | .search n .complement => !(abit d.rom n)
  | .readSp k => if k < 72 then (d.sp.getD (k / 8) 0).getLsbD (k % 8) else true
  | .idle | .romCmd _ | .search _ .direction | .matching _ | .func _ | .writeSp _ => true

/-- 20_memory.md R47, `BusRead()`: where one device goes. -/
def Device.onRead (d : Device) : Device :=
  match d.mode with
  | .search n .bit => { d with mode := .search n .complement }
  | .search n .complement => { d with mode := .search n .direction }
  | .readSp k => if k < 72 then { d with mode := .readSp (k + 1) } else d
  | .idle | .romCmd _ | .search _ .direction | .matching _ | .func _ | .writeSp _ => d

/-- The next answer of a bus about which nothing is assumed: the script's, else a free value (log entry 2). -/
def Bus.draw : List Bool → Nat → Bool × Bus
  | b :: script, drawn => (b, .free script drawn)
  | [], drawn => (Config.freeAnswer drawn, .free [] (drawn + 1))

/-- 20_memory.md R42, `BusReset() -> p`; on the reference bus "`p = 1` if the list is non-empty" (R47). -/
def Bus.reset : Bus → Bool × Bus
  | .free script drawn => Bus.draw script drawn
  | .devices ds => (!ds.isEmpty, .devices (ds.map Device.onReset))

/-- 20_memory.md R42, `BusWrite(b)`: "Nothing comes back." -/
def Bus.write (p : Params) (b : Bool) : Bus → Bus
  | .free script drawn => .free script drawn
  | .devices ds => .devices (ds.map (Device.onWrite p b))

/-- 20_memory.md R42, `BusRead() -> b`; on the reference bus "The result is the AND of all offers, and 1 for an empty list"
(R47). -/
def Bus.read : Bus → Bool × Bus
  | .free script drawn => Bus.draw script drawn
  | .devices ds => (ds.all Device.offer, .devices (ds.map Device.onRead))

end Sys2Proof.Machine
end

