-- ==== Sys2Proof/Machine/Line.lean ====
section
/-! DEFINITION. The line driver: micro-operations (40_signal_primitives.md), the three exchanges and the transport procedures
built of them (41_transport.md R100 to R103, 42_reset_presence.md R110). They act on the line alone and touch no register. -/

namespace Sys2Proof.Machine

/-- 41_transport.md R100, R101, 42_reset_presence.md R110: an exchange's micro-operations in order. -/
def Slot.ops (d : Durations) : Slot → List MicroOp
  | .reset => [.driveLow, .delay d.rstLow, .release, .delay d.rstWait, .sample, .delay d.rstPad]
  | .write true => [.driveLow, .delay d.w1Low, .release, .delay d.w1Rel]
  | .write false => [.driveLow, .delay d.w0Low, .release, .delay d.w0Rel]
  | .read => [.driveLow, .delay d.rLow, .release, .delay d.rWait, .sample, .delay d.rPad]

/-- 20_memory.md R41, the wired-AND: the line is high only when the block has released it and no device pulls it low. -/
def lineLevel (owOe devicesRelease : Bool) : Bool := !owOe && devicesRelease

/-- 40_signal_primitives.md R92, `SAMPLE`, within a reset or a read slot. `BusReset` answers 1 when the line is low at the
presence sample (20_memory.md R42), so there the devices release the line exactly when the answer is 0. -/
def Line.sample (slot : Slot) (l : Line) : Bool × Line :=
  match slot with
  | .reset => (lineLevel l.owOe (!l.bus.reset.1), { l with bus := l.bus.reset.2 })
  | .read => (lineLevel l.owOe l.bus.read.1, { l with bus := l.bus.read.2 })
  | .write _ => (lineLevel l.owOe true, l)

/-- One micro-operation (40_signal_primitives.md R90 to R93) on the sampled level and the line. DELAY only takes time. -/
def Line.microOp (slot : Slot) (op : MicroOp) (x : Bool × Line) : Bool × Line :=
  match op with
  | .driveLow => (x.1, { x.2 with owOe := true })
  | .release => (x.1, { x.2 with owOe := false })
  | .delay t => (x.1, { x.2 with elapsed := x.2.elapsed + t })
  | .sample => x.2.sample slot

/-- The end of an exchange: it stands in the trace (20_memory.md R42), and the devices have the bit of a written slot (log
entry 12). -/
def Line.record (p : Params) (slot : Slot) (level : Bool) (l : Line) : Line :=
  match slot with
  | .reset => { l with trace := l.trace ++ [.reset (!level)] }
  | .write b => { l with bus := l.bus.write p b, trace := l.trace ++ [.write b] }
  | .read => { l with trace := l.trace ++ [.read level] }

/-- One whole exchange: its micro-operations in order (40_signal_primitives.md R95), then its end. Answers the level
sampled. -/
def Line.exchange (p : Params) (slot : Slot) (l : Line) : Bool × Line :=
  let x := (slot.ops p.dur).foldl (fun x op => Line.microOp slot op x) (true, l)
  (x.1, x.2.record p slot x.1)

/-- 40_signal_primitives.md R93, `DELAY(t)` with the line released. -/
def Line.delay (t : Nat) (l : Line) : Line := { l with elapsed := l.elapsed + t }

/-- 42_reset_presence.md R110, `Reset() -> p`: "`p <- 1 if s = 0 else 0`". -/
def Line.busReset (p : Params) (l : Line) : Bool × Line :=
  let x := l.exchange p .reset
  (!x.1, x.2)

/-- 41_transport.md R100, `WriteBit(b)`. -/
def Line.writeBit (p : Params) (b : Bool) (l : Line) : Line := (l.exchange p (.write b)).2

/-- 41_transport.md R101, `ReadBit() -> b`. -/
def Line.readBit (p : Params) (l : Line) : Bool × Line := l.exchange p .read

/-- Slots for the bits of a list, in order. -/
def Line.writeBits (p : Params) (bs : List Bool) (l : Line) : Line :=
  bs.foldl (fun l b => l.writeBit p b) l

/-- 41_transport.md R102, `WriteByte(v)`: "one 100 µs delay after the eighth bit, none between the bits". -/
def Line.writeByte (p : Params) (v : Byte) (l : Line) : Line :=
  (l.writeBits p (byteBits v)).delay p.dur.wByteGap

/-- `k` read slots, "every bit is followed by `T_RBIT_GAP`" (30_encoding.md R73); the bits in the order read. -/
def Line.readBits (p : Params) : Nat → Line → List Bool × Line
  | 0, l => ([], l)
  | k + 1, l =>
    let x := l.readBit p
    let y := Line.readBits p k (x.2.delay p.dur.rBitGap)
    (x.1 :: y.1, y.2)

/-- 41_transport.md R103, `ReadByte() -> v`: "Bit 0 is the first bit read." -/
def Line.readByte (p : Params) (l : Line) : Byte × Line :=
  let x := l.readBits p 8
  (bitsByte x.1, x.2)

/-- Written bytes, in order (20_memory.md R48). -/
def Line.writeBytes (p : Params) (vs : List Byte) (l : Line) : Line :=
  vs.foldl (fun l v => l.writeByte p v) l

/-- 45_scratchpad.md R140, `Select(A)`: the match command and the eight address bytes, byte 0 first. -/
def Line.select (p : Params) (A : Address) (l : Line) : Line :=
  l.writeBytes p (p.cmdMatchRom :: A.toList)

/-- `k` bytes read into a scratchpad from element `9 - k` on: 45_scratchpad.md R141, "for k = 0 to 8: SP[k] <- ReadByte()". -/
def Line.readPad (p : Params) : Nat → Pad → Line → Pad × Line
  | 0, P, l => (P, l)
  | k + 1, P, l =>
    let x := l.readByte p
    Line.readPad p k (P.setIfInBounds (8 - k) x.1) x.2

end Sys2Proof.Machine
end

