-- ==== Sys2Proof/Machine/Ops.lean ====
section
/-! DEFINITION. The shared operations of the commands over the registers: launch and end of a command, the error that takes the
place of a trap (60_exceptions.md R176), the scratchpad procedures (45_scratchpad.md R140 to R147), and the registers seen
from the host port (10_state.md R14). -/

namespace Sys2Proof.Machine

/-! ## Launch, end, error -/

/-- The first line of every command: "PRESENCE, OK, CRC_OK, NONZERO <- 0; ERR <- 0" (10_state.md R17, R18). -/
def State.launch (s : State) : State := { s with flags := s.flags.launched, err := .none }

/-- The end of a command: OK holds its result and SEQ returns to IDLE, which clears BUSY (10_state.md R17, R20). -/
def State.done (ok : Bool) (s : State) : State := { s with flags := { s.flags with ok := ok }, seq := .idle }

/-- 60_exceptions.md R176, `fail <Error>` of 00_scope.md R11: "writes `ERR`, leaves `OK = 0`, clears `BUSY`". It "saves no
state, changes no mode, masks nothing and transfers control nowhere". -/
def State.fail (e : ErrCode) (s : State) : State := { s with err := e }.done false

/-- 30_encoding.md R76, 60_exceptions.md R175: a write of an illegal opcode to CMD. -/
def State.illegalCommand (v : Byte) (s : State) : State :=
  { s with cmd := v, flags := { s.flags.launched with fault := true }, err := .illegalCommand }

/-- 60_exceptions.md R175: host misuse is recorded. -/
def State.misuse (s : State) : State := { s with flags := { s.flags with fault := true } }

/-! ## Bus frames -/

/-- A procedure of the line driver, on the block's line. -/
def State.onLine (f : Line → Line) (s : State) : State := { s with line := f s.line }

/-- The result of a reset that opens a frame reaches PRESENCE (10_state.md R17). -/
def State.setPresence (p : Bool) (s : State) : State := { s with flags := { s.flags with presence := p } }

/-- "p <- Reset(); PRESENCE <- p" (44_search.md R127, 45_scratchpad.md R141, R142). -/
def State.openFrame (s : State) : Bool × State :=
  let x := s.line.busReset s.params
  (x.1, ({ s with line := x.2 }).setPresence x.1)

/-- 45_scratchpad.md R141 after its first reset: select, command, nine bytes, a reset whose result is discarded. -/
def State.readFrame (s : State) : State :=
  let y := ((s.line.select s.params s.addr).writeByte s.params s.params.cmdReadScratchpad).readPad s.params 9 s.sp
  { s with sp := y.1, line := (y.2.busReset s.params).2 }

/-- 45_scratchpad.md R141, `ReadSP(ADDR) -> ok`. -/
def State.readSp (s : State) : Bool × State :=
  let x := s.openFrame
  (x.1, if x.1 then x.2.readFrame else x.2)

/-- 45_scratchpad.md R142 after its first reset: select, command, the three payload bytes WTH, WTL, WCFG, a reset whose
result is discarded. -/
def State.writeFrame (s : State) : State :=
  s.onLine fun l =>
    (((l.select s.params s.addr).writeBytes s.params
      [s.params.cmdWriteScratchpad, s.wth, s.wtl, s.wcfg]).busReset s.params).2

/-- 45_scratchpad.md R142, `WriteSP(ADDR, WTH, WTL, WCFG) -> ok`. -/
def State.writeSp (s : State) : Bool × State :=
  let x := s.openFrame
  (x.1, if x.1 then x.2.writeFrame else x.2)

/-! ## Checks -/

/-- 43_crc8.md R122 and 45_scratchpad.md R147: CRC, CRC_OK and NONZERO from the nine bytes SP holds. -/
def State.checkPad (s : State) : State :=
  { s with
    crc := padCrc s.sp
    flags := { s.flags with crcOk := decide (padCrc s.sp = s.sp.getD 8 0), nonzero := padNonzero s.sp } }

/-- Both tests of 43_crc8.md R122 passed. -/
def State.padPassed (s : State) : Bool := s.flags.crcOk && s.flags.nonzero

/-- 45_scratchpad.md R147, `IsConn(ADDR) -> ok`, with the error it fails with already in ERR. -/
def State.isConn (s : State) : Bool × State :=
  let x := s.readSp
  if x.1 then
    let t := x.2.checkPad
    (t.padPassed, if t.padPassed then t else { t with err := .integrityFailure })
  else (false, { x.2 with err := .busAbsent })

/-- 45_scratchpad.md R146, "WTH <- SP[2]; WTL <- SP[3]; WCFG <- pat". -/
def State.loadWriteBack (pat : Byte) (s : State) : State :=
  { s with wth := s.sp.getD 2 0, wtl := s.sp.getD 3 0, wcfg := pat }

/-- The pattern that SET_RESOLUTION asks for (45_scratchpad.md R146, 30_encoding.md R78). -/
def State.requestedPattern (s : State) : Byte := resolutionPattern s.params (clampResolution s.data)

/-! ## The registers from the host port -/

/-- 10_state.md R14 to R28: the byte a register reads as. An array element outside its range is no register. -/
def State.reg (s : State) : RegName → Byte
  | .cmd => s.cmd
  | .status => s.status
  | .err => s.err.code.setWidth 8
  | .data => s.data
  | .crc => s.crc
  | .ld => s.ld.setWidth 8
  | .lfd => s.lfd.setWidth 8
  | .ldf => bitByte s.ldf
  | .romNo k => s.romNo.getD k 0
  | .addr k => s.addr.getD k 0
  | .sp k => s.sp.getD k 0
  | .wth => s.wth
  | .wtl => s.wtl
  | .wcfg => s.wcfg

/-- 10_state.md R13, R14, R29: the byte at a host address while BUSY = 0; reserved addresses read 0x00. -/
def State.readReg (s : State) (a : BitVec 6) : Byte :=
  match regAt a with
  | some r => s.reg r
  | none => 0x00

/-- 10_state.md R14: a host write, while BUSY = 0, of a register that only stores. Read-only registers ignore it; unused bits
are "ignored on write". The write of CMD launches and is not here (R15). -/
def State.setReg (s : State) (v : Byte) : RegName → State
  | .cmd => s
  | .status => s
  | .err => s
  | .data => { s with data := v }
  | .crc => s
  | .ld => { s with ld := v.setWidth 7 }
  | .lfd => { s with lfd := v.setWidth 4 }
  | .ldf => { s with ldf := v.getLsbD 0 }
  | .romNo k => { s with romNo := s.romNo.setIfInBounds k v }
  | .addr k => { s with addr := s.addr.setIfInBounds k v }
  | .sp k => { s with sp := s.sp.setIfInBounds k v }
  | .wth => { s with wth := v }
  | .wtl => { s with wtl := v }
  | .wcfg => { s with wcfg := v }

/-- 10_state.md R14, R29: the same by address; a write to a reserved address "is ignored and is not a fault". -/
def State.writeReg (a : BitVec 6) (v : Byte) (s : State) : State :=
  match regAt a with
  | some r => s.setReg v r
  | none => s

/-- 70_reset_and_hazards.md R190: all of the block's state takes its reset value and the line is released, wherever a command
stands. What is not the block's (the reset input, the bus and its history, the pending events, the configuration) stays (log
entry 13). -/
def State.hwReset (s : State) : State :=
  { State.reset with
    rstIn := s.rstIn
    line := { s.line with owOe := false }
    hostQ := s.hostQ
    hostWait := s.hostWait
    freeReads := s.freeReads
    params := s.params }

end Sys2Proof.Machine
end

