-- ==== Sys2Proof/Machine/Crc.lean ====
section
/-! DEFINITION. 43_crc8.md R119 to R122: CRC_INIT, CRC_BYTE, CHECK_ADDR, CHECK_SP. No bus exchange in any of them. -/

namespace Sys2Proof.Machine

/-- 43_crc8.md R119: "CRC <- 0x00". -/
def execCrcInit (s : State) : Host.Outcome State Fault Refusal :=
  .next (({ s.launch with crc := 0x00 }).done true)

/-- 43_crc8.md R120: "CRC <- crc8_step(CRC, DATA)". -/
def execCrcByte (s : State) : Host.Outcome State Fault Refusal :=
  .next (({ s.launch with crc := crc8Step s.crc s.data }).done true)

/-- ADDR's CRC into CRC and its comparison with ADDR[7] into CRC_OK (43_crc8.md R121). -/
def State.checkAddress (s : State) : State :=
  { s with crc := addressCrc s.addr, flags := { s.flags with crcOk := decide (addressCrc s.addr = s.addr.getD 7 0) } }

/-- 43_crc8.md R121: IntegrityFailure on mismatch; no all-zero test. -/
def execCheckAddr (s : State) : Host.Outcome State Fault Refusal :=
  .next (let t := s.launch.checkAddress
    if t.flags.crcOk then t.done true else t.fail .integrityFailure)

/-- 43_crc8.md R122: CRC and all-zero test of whatever SP holds. -/
def execCheckSp (s : State) : Host.Outcome State Fault Refusal :=
  .next (let t := s.launch.checkPad
    if t.padPassed then t.done true else t.fail .integrityFailure)

end Sys2Proof.Machine
end

