-- ==== Sys2Proof/Machine/Scratchpad.lean ====
section
/-! DEFINITION. 45_scratchpad.md R143 to R146: READ_SCRATCHPAD, WRITE_SCRATCHPAD, IS_CONNECTED, SET_RESOLUTION. -/

namespace Sys2Proof.Machine

/-- 45_scratchpad.md R143. -/
def execReadScratchpad (s : State) : Host.Outcome State Fault Refusal :=
  .next (let x := s.launch.readSp
    if x.1 then x.2.done true else x.2.fail .busAbsent)

/-- 45_scratchpad.md R144. -/
def execWriteScratchpad (s : State) : Host.Outcome State Fault Refusal :=
  .next (let x := s.launch.writeSp
    if x.1 then x.2.done true else x.2.fail .busAbsent)

/-- 45_scratchpad.md R145. -/
def execIsConnected (s : State) : Host.Outcome State Fault Refusal :=
  .next (let x := s.launch.isConn
    x.2.done x.1)

/-- 45_scratchpad.md R146: a write-back only "if SP[4] != pat", its result discarded. -/
def execSetResolution (s : State) : Host.Outcome State Fault Refusal :=
  .next (let x := s.launch.isConn
    if x.1 then
      if x.2.sp.getD 4 0 != s.requestedPattern then
        ((x.2.loadWriteBack s.requestedPattern).writeSp).2.done true
      else x.2.done true
    else x.2.done false)

end Sys2Proof.Machine
end

