-- ==== Sys2Proof/Machine/Search.lean ====
section
/-! DEFINITION. 44_search.md: SEARCH_RESET (R126), the search procedure (R127, R130 to R134), SEARCH_ROM (R128), SEARCH_ALARM
(R129). -/

namespace Sys2Proof.Machine

/-- "LD <- 0; LDF <- 0; LFD <- 0" (44_search.md R126, R127). ROM_NO is not changed. -/
def State.clearSearch (s : State) : State := { s with ld := 0, lfd := 0, ldf := false }

/-- 44_search.md R126. -/
def execSearchReset (s : State) : Host.Outcome State Fault Refusal :=
  .next (s.launch.clearSearch.done true)

/-- 44_search.md R127 step 4, the direction at position `n` when not both bits are 1: the forced bit; at a discrepancy the
recorded bit below LD, 1 at LD, 0 above. -/
def State.direction (s : State) (n : Nat) (idBit cmpBit : Bool) : Bool :=
  if idBit != cmpBit then idBit
  else if n < s.ld.toNat then abit s.romNo n
  else decide (n = s.ld.toNat)

/-- 44_search.md R130 (b), (f): a 0 is recorded when it is taken at a discrepancy, never when it is forced. -/
def State.zeroTaken (s : State) (n : Nat) (idBit cmpBit : Bool) : Bool :=
  (idBit == cmpBit) && !(s.direction n idBit cmpBit)

/-- 44_search.md R127, `last_zero` after position `n`. -/
def State.lastZeroAt (s : State) (n : Nat) (idBit cmpBit : Bool) (lastZero : BitVec 7) : BitVec 7 :=
  if s.zeroTaken n idBit cmpBit then BitVec.ofNat 7 n else lastZero

/-- 44_search.md R127, R130 (d): LFD is written at once, in positions 1 to 8; the direction is stored in ROM_NO. -/
def State.storeDirection (s : State) (n : Nat) (idBit cmpBit : Bool) : State :=
  { s with
    lfd := if s.zeroTaken n idBit cmpBit && decide (n < 9) then BitVec.ofNat 4 n else s.lfd
    romNo := setAbit s.romNo n (s.direction n idBit cmpBit) }

/-- 44_search.md R127 step 4 from position `65 - k` on, `k` positions to go. It answers `last_zero`, or none when a position
was aborted. -/
def State.traverse : Nat → BitVec 7 → State → Option (BitVec 7) × State
  | 0, lastZero, s => (some lastZero, s)
  | k + 1, lastZero, s =>
    let x := s.line.readBit s.params
    let y := x.2.readBit s.params
    let t := { s with line := y.2 }
    if x.1 && y.1 then (none, t)
    else
      State.traverse k (s.lastZeroAt (64 - k) x.1 y.1 lastZero)
        ((t.storeDirection (64 - k) x.1 y.1).onLine fun l => l.writeBit s.params (s.direction (64 - k) x.1 y.1))

/-- 44_search.md R127 step 5. -/
def State.searchFound (lastZero : BitVec 7) (s : State) : State :=
  { s with ld := lastZero, ldf := s.ldf || decide (lastZero = 0) }.done true

/-- 44_search.md R131, R132: the search state is cleared and the error reported. -/
def State.searchFailed (e : ErrCode) (s : State) : State := s.clearSearch.fail e

/-- 44_search.md R127, `Search(c)`, to the end of the command. -/
def State.search (c : Byte) (s : State) : State :=
  if s.ldf then s.done false
  else
    let x := s.openFrame
    if x.1 then
      let y := (x.2.onLine fun l => l.writeByte s.params c).traverse 64 0
      match y.1 with
      | some lastZero => y.2.searchFound lastZero
      | none => y.2.searchFailed .searchAborted
    else x.2.searchFailed .busAbsent

/-- 44_search.md R128. -/
def execSearchRom (s : State) : Host.Outcome State Fault Refusal :=
  .next (s.launch.search s.params.cmdSearchRom)

/-- 44_search.md R129. -/
def execSearchAlarm (s : State) : Host.Outcome State Fault Refusal :=
  .next (s.launch.search s.params.cmdSearchAlarm)

end Sys2Proof.Machine
end

