-- ==== Sys2Proof/Machine/Transport.lean ====
section
/-! DEFINITION. 41_transport.md R104 to R107: WRITE_BIT, READ_BIT, WRITE_BYTE, READ_BYTE; 42_reset_presence.md R111: BUS_RESET. -/

namespace Sys2Proof.Machine

/-- 41_transport.md R104: one slot carrying DATA[0]; "`OK = 1` always". -/
def execWriteBit (s : State) : Host.Outcome State Fault Refusal :=
  .next ((s.launch.onLine fun l => l.writeBit s.params (s.data.getLsbD 0)).done true)

/-- 41_transport.md R105: one read slot, "DATA <- zext_8(b)". -/
def execReadBit (s : State) : Host.Outcome State Fault Refusal :=
  .next (let x := s.line.readBit s.params
    ({ s.launch with line := x.2, data := bitByte x.1 }).done true)

/-- 41_transport.md R106: the eight bits of DATA, bit 0 first. -/
def execWriteByte (s : State) : Host.Outcome State Fault Refusal :=
  .next ((s.launch.onLine fun l => l.writeByte s.params s.data).done true)

/-- 41_transport.md R107: "DATA <- ReadByte()". -/
def execReadByte (s : State) : Host.Outcome State Fault Refusal :=
  .next (let x := s.line.readByte s.params
    ({ s.launch with line := x.2, data := x.1 }).done true)

/-- 42_reset_presence.md R111: PRESENCE and OK take the presence result; BusAbsent when there is none. -/
def execBusReset (s : State) : Host.Outcome State Fault Refusal :=
  .next (let x := s.launch.openFrame
    if x.1 then x.2.done true else x.2.fail .busAbsent)

end Sys2Proof.Machine
end

