-- ==== Sys2Proof/Machine/Dispatch.lean ====
section
/-! DEFINITION. One arm per command: the meaning of each. -/

namespace Sys2Proof.Machine

def exec (i : Instr) (s : State) : Host.Outcome State Fault Refusal :=
  match i with
  | .writeBit => Sys2Proof.Machine.execWriteBit s
  | .readBit => Sys2Proof.Machine.execReadBit s
  | .writeByte => Sys2Proof.Machine.execWriteByte s
  | .readByte => Sys2Proof.Machine.execReadByte s
  | .busReset => Sys2Proof.Machine.execBusReset s
  | .crcInit => Sys2Proof.Machine.execCrcInit s
  | .crcByte => Sys2Proof.Machine.execCrcByte s
  | .checkAddr => Sys2Proof.Machine.execCheckAddr s
  | .checkSp => Sys2Proof.Machine.execCheckSp s
  | .searchReset => Sys2Proof.Machine.execSearchReset s
  | .searchRom => Sys2Proof.Machine.execSearchRom s
  | .searchAlarm => Sys2Proof.Machine.execSearchAlarm s
  | .readScratchpad => Sys2Proof.Machine.execReadScratchpad s
  | .writeScratchpad => Sys2Proof.Machine.execWriteScratchpad s
  | .isConnected => Sys2Proof.Machine.execIsConnected s
  | .setResolution => Sys2Proof.Machine.execSetResolution s

end Sys2Proof.Machine
end

