-- ==== Sys2Proof/Machine/Sequencer.lean ====
section
/-! DEFINITION. The sequencer: a running command seen one micro-operation and one microsecond at a time (10_state.md R20, R30,
40_signal_primitives.md R93, R95, 44_search.md R125). It is what a host that does not wait for BUSY = 0 looks into (R35); a
command that is left alone ends as `exec` says. -/

namespace Sys2Proof.Machine

/-- The micro-operation's DELAY in microseconds: what the down-counter is loaded with (40_signal_primitives.md R93). -/
def MicroOp.ticks : MicroOp → Nat
  | .delay t => t
  | .driveLow | .release | .sample => 0

/-- A command about to start: every live register of 10_state.md R30 at 0. -/
def SeqRegs.fresh (i : Instr) : SeqRegs where
  cmd := i
  phase := .compute
  n := 0
  lastZero := 0
  idBit := false
  cmpBit := false
  dir := false
  bitCount := 0
  byteCount := 0
  shift := 0
  timer := 0
  slot := none
  ops := []
  settle := 0
  level := true

/-- Start an exchange that a settle DELAY of `gap` follows (41_transport.md R102, R103), 0 for none. The delay is no part of
the exchange, which is made before it begins (log entry 12). -/
def SeqRegs.start (p : Params) (ph : Phase) (slot : Slot) (gap : Nat) (r : SeqRegs) : SeqRegs :=
  { r with phase := ph, slot := some slot, ops := slot.ops p.dur, settle := gap, level := true }

/-- Start sending byte `v`, bit 0 first. -/
def SeqRegs.send (p : Params) (ph : Phase) (v : Byte) (r : SeqRegs) : SeqRegs :=
  { r with shift := v, bitCount := 0 }.start p ph (.write (v.getLsbD 0)) 0

/-- The next bit of the byte being sent; the settle delay follows the eighth (41_transport.md R102). -/
def SeqRegs.sendNext (p : Params) (r : SeqRegs) : SeqRegs :=
  { r with shift := r.shift >>> 1, bitCount := r.bitCount + 1 }.start p r.phase (.write ((r.shift >>> 1).getLsbD 0))
    (if r.bitCount = 6 then p.dur.wByteGap else 0)

/-- Start receiving a byte. -/
def SeqRegs.receive (p : Params) (ph : Phase) (r : SeqRegs) : SeqRegs :=
  { r with shift := 0, bitCount := 0 }.start p ph .read p.dur.rBitGap

/-- The bit just sampled enters the shift register at the top, so that after eight bit 0 is the first read. -/
def SeqRegs.shiftedIn (r : SeqRegs) : Byte := (r.shift >>> 1) ||| (if r.level then 0x80 else 0x00)

/-- The next bit of the byte being received. -/
def SeqRegs.receiveNext (p : Params) (r : SeqRegs) : SeqRegs :=
  { r with shift := r.shiftedIn, bitCount := r.bitCount + 1 }.start p r.phase .read p.dur.rBitGap

/-- The sequencer goes on with `r`. -/
def State.runs (r : SeqRegs) (s : State) : State := { s with seq := .run r }

/-- The presence result of the reset just made reaches PRESENCE; answer 1 when the line was sampled low (R110). -/
def State.latchPresence (r : SeqRegs) (s : State) : State := s.setPresence (!r.level)

/-- After a byte of a phase that sends has gone out: what comes next. -/
def SeqRegs.sent (r : SeqRegs) (s : State) : State :=
  let p := s.params
  match r.phase with
  | .searchCommand => s.runs ({ r with n := 1, lastZero := 0 }.start p .searchId .read 0)
  | .readMatch => s.runs ({ r with byteCount := 0 }.send p .readAddr (s.addr.getD 0 0))
  | .readAddr =>
    if r.byteCount = 7 then s.runs (r.send p .readCommand p.cmdReadScratchpad)
    else s.runs ({ r with byteCount := r.byteCount + 1 }.send p .readAddr (s.addr.getD (r.byteCount.toNat + 1) 0))
  | .readCommand => s.runs ({ r with byteCount := 0 }.receive p .readData)
  | .writeMatch => s.runs ({ r with byteCount := 0 }.send p .writeAddr (s.addr.getD 0 0))
  | .writeAddr =>
    if r.byteCount = 7 then s.runs (r.send p .writeCommand p.cmdWriteScratchpad)
    else s.runs ({ r with byteCount := r.byteCount + 1 }.send p .writeAddr (s.addr.getD (r.byteCount.toNat + 1) 0))
  | .writeCommand => s.runs ({ r with byteCount := 0 }.send p .writeData s.wth)
  | .writeData =>
    if r.byteCount = 0 then s.runs ({ r with byteCount := 1 }.send p .writeData s.wtl)
    else if r.byteCount = 1 then s.runs ({ r with byteCount := 2 }.send p .writeData s.wcfg)
    else s.runs (r.start p .writeClose .reset 0)
  | .compute | .bit | .byte | .presence | .searchReset | .searchId | .searchCmp | .searchDir | .readReset | .readData
  | .readClose | .writeReset | .writeClose => s.done true

/-- After the scratchpad read frame has closed: the checks of IS_CONNECTED and SET_RESOLUTION, and the write-back. -/
def SeqRegs.readFrameClosed (r : SeqRegs) (s : State) : State :=
  match r.cmd with
  | .isConnected =>
    let t := s.checkPad
    if t.padPassed then t.done true else t.fail .integrityFailure
  | .setResolution =>
    let t := s.checkPad
    if t.padPassed then
      if t.sp.getD 4 0 != t.requestedPattern then
        (t.loadWriteBack t.requestedPattern).runs (r.start s.params .writeReset .reset 0)
      else t.done true
    else t.fail .integrityFailure
  | .writeBit | .readBit | .writeByte | .readByte | .busReset | .crcInit | .crcByte | .checkAddr | .checkSp | .searchReset
  | .searchRom | .searchAlarm | .readScratchpad | .writeScratchpad => s.done true

/-- The state in which a command without bus activity ends. -/
def computed (i : Instr) (s : State) : State :=
  match exec i s with
  | .next t => t
  | .fault _ => s
  | .refused _ => s

/-- The exchange in progress has ended (or a command without exchanges has): the next position of the command, or its end. -/
def SeqRegs.advance (r : SeqRegs) (s : State) : State :=
  let p := s.params
  match r.phase with
  | .compute => computed r.cmd s
  | .bit => if r.cmd = .readBit then { s with data := bitByte r.level }.done true else s.done true
  | .byte =>
    if r.cmd = .readByte then
      if r.bitCount = 7 then { s with data := r.shiftedIn }.done true else s.runs (r.receiveNext p)
    else if r.bitCount = 7 then s.done true
    else s.runs (r.sendNext p)
  | .presence => if r.level then (s.latchPresence r).fail .busAbsent else (s.latchPresence r).done true
  | .searchReset =>
    if r.level then (s.latchPresence r).searchFailed .busAbsent
    else
      (s.latchPresence r).runs
        (r.send p .searchCommand (if r.cmd = .searchAlarm then p.cmdSearchAlarm else p.cmdSearchRom))
  | .searchId => s.runs ({ r with idBit := r.level }.start p .searchCmp .read 0)
  | .searchCmp =>
    if r.idBit && r.level then s.searchFailed .searchAborted
    else
      (s.storeDirection r.n.toNat r.idBit r.level).runs
        ({ r with
            cmpBit := r.level
            dir := s.direction r.n.toNat r.idBit r.level
            lastZero := s.lastZeroAt r.n.toNat r.idBit r.level r.lastZero }.start p .searchDir
          (.write (s.direction r.n.toNat r.idBit r.level)) 0)
  | .searchDir =>
    if r.n = 64 then s.searchFound r.lastZero
    else s.runs ({ r with n := r.n + 1 }.start p .searchId .read 0)
  | .readReset =>
    if r.level then (s.latchPresence r).fail .busAbsent
    else (s.latchPresence r).runs (r.send p .readMatch p.cmdMatchRom)
  | .readData =>
    if r.bitCount = 7 then
      let t := { s with sp := s.sp.setIfInBounds r.byteCount.toNat r.shiftedIn }
      if r.byteCount = 8 then t.runs (r.start p .readClose .reset 0)
      else t.runs ({ r with byteCount := r.byteCount + 1 }.receive p .readData)
    else s.runs (r.receiveNext p)
  | .readClose => r.readFrameClosed s
  | .writeReset =>
    if r.level then
      if r.cmd = .setResolution then (s.latchPresence r).done true else (s.latchPresence r).fail .busAbsent
    else (s.latchPresence r).runs (r.send p .writeMatch p.cmdMatchRom)
  | .writeClose => s.done true
  | .searchCommand | .readMatch | .readAddr | .readCommand | .writeMatch | .writeAddr | .writeCommand | .writeData =>
    if r.bitCount = 7 then r.sent s else s.runs (r.sendNext p)

/-- The end of an exchange: its micro-operations have run, it is made (log entry 12), and only then its settle DELAY begins
(41_transport.md R102, R103). Without one the command goes on at once. -/
def SeqRegs.exchangeEnd (r : SeqRegs) (slot : Slot) (s : State) : State :=
  let t := s.onLine fun l => l.record s.params slot r.level
  let r' := { r with slot := none, settle := 0 }
  if r.settle = 0 then r'.advance t else t.runs { r' with ops := [.delay r.settle] }

/-- One tick of the sequencer: a microsecond of the DELAY in progress, or the next micro-operation, or the end of the
exchange or of its settle DELAY (log entry 11). -/
def SeqRegs.tick (r : SeqRegs) (s : State) : State :=
  match r.timer with
  | k + 1 => s.runs { r with timer := k }
  | 0 =>
    match r.ops with
    | op :: ops =>
      let x := Line.microOp (r.slot.getD .read) op (r.level, s.line)
      ({ s with line := x.2 }).runs { r with ops := ops, timer := op.ticks, level := x.1 }
    | [] =>
      match r.slot with
      | some slot => r.exchangeEnd slot s
      | none => r.advance s

/-- The sequencer of a state: nothing moves while SEQ is IDLE. -/
def State.tick (s : State) : State :=
  match s.seq with
  | .idle => s
  | .run r => r.tick s

/-- `k` ticks with no event at the host port. -/
def State.ticks : Nat → State → State
  | 0, s => s
  | k + 1, s => State.ticks k s.tick

/-- The first position of a launched command (10_state.md R15, R17, R20). -/
def SeqRegs.first (i : Instr) (s : State) : SeqRegs :=
  let p := s.params
  let r := SeqRegs.fresh i
  let none := { r with timer := p.computeTicks }
  match i with
  | .writeBit => r.start p .bit (.write (s.data.getLsbD 0)) 0
  | .readBit => r.start p .bit .read 0
  | .writeByte => r.send p .byte s.data
  | .readByte => r.receive p .byte
  | .busReset => r.start p .presence .reset 0
  | .crcInit => none
  | .crcByte => none
  | .checkAddr => none
  | .checkSp => none
  | .searchReset => none
  | .searchRom => if s.ldf then none else r.start p .searchReset .reset 0
  | .searchAlarm => if s.ldf then none else r.start p .searchReset .reset 0
  | .readScratchpad => r.start p .readReset .reset 0
  | .writeScratchpad => r.start p .writeReset .reset 0
  | .isConnected => r.start p .readReset .reset 0
  | .setResolution => r.start p .readReset .reset 0

/-- A command is launched and left running: BUSY = 1 (10_state.md R15). -/
def State.begin (i : Instr) (s : State) : State := s.launch.runs (SeqRegs.first i s)

end Sys2Proof.Machine
end

