-- ==== Sys2Proof/Machine/Port.lean ====
section
/-! DEFINITION. The host port and the reset input (10_state.md R13, R15, R35, 70_reset_and_hazards.md R190, R195): what one event
does while the block is idle, while a command runs, and while it is held in reset. -/

namespace Sys2Proof.Machine

/-- 10_state.md R15, 30_encoding.md R76: a write of `v` to CMD while BUSY = 0. A host that then waits for BUSY = 0 sees the
command as one transition (20_memory.md R52, log entry 1); one that does not sees it running. -/
def launchOpcode (v : Byte) (hold : Option Nat) (s : State) : Host.Outcome State Fault Refusal :=
  match decodeOpcode v with
  | .ok i =>
    match hold with
    | none => exec i { s with cmd := v }
    | some _ => .next ({ s with cmd := v }.begin i)
  | .error _ => .next (s.illegalCommand v)

/-- The reset input changes to a level. Asserting it clears the block at once, "wherever it is" in a command
(70_reset_and_hazards.md R190); releasing an input that is not asserted is no change. -/
def State.setReset (asserted : Bool) (s : State) : State :=
  if asserted then { s.hwReset with rstIn := true } else s

/-- One event at the port while the block is idle. -/
def idleEvent (e : PortEvent) (s : State) : Host.Outcome State Fault Refusal :=
  match e.op with
  | .write a v => if a = 0x00 then launchOpcode v e.hold s else .next (s.writeReg a v)
  | .read a => .next { s with rdata := s.readReg a }
  | .resetInput asserted => .next (s.setReset asserted)
  | .busChange b => .next (s.onLine fun l => { l with bus := b })

/-- 10_state.md R35: a host write of a register while busy "is ignored and sets `STATUS.FAULT`"; a reserved address holds no
register (R29, log entry 6). -/
def State.busyWrite (a : BitVec 6) (s : State) : State :=
  match regAt a with
  | some _ => s.misuse
  | none => s

/-- 10_state.md R35: while busy a read of STATUS is exact, of any other register unspecified (log entry 5); a reserved address
reads 0x00 (R29, log entry 6). -/
def State.busyRead (a : BitVec 6) (s : State) : State :=
  match regAt a with
  | some .status => { s with rdata := s.status }
  | some _ => { s with rdata := Config.freeRead s.freeReads, freeReads := s.freeReads + 1 }
  | none => { s with rdata := 0x00 }

/-- One event at the port while a command runs. -/
def busyEvent (e : PortEvent) (s : State) : State :=
  match e.op with
  | .write a _ => s.busyWrite a
  | .read a => s.busyRead a
  | .resetInput asserted => s.setReset asserted
  | .busChange b => s.onLine fun l => { l with bus := b }

/-- The event at the head of the queue is taken: it leaves the queue, and its hold says when the next may come. -/
def State.taken (e : PortEvent) (q : List PortEvent) (s : State) : State := { s with hostQ := q, hostWait := e.hold }

/-- While the block is idle the next pending event happens; with none pending nothing does (70_reset_and_hazards.md R190: "the
block executes nothing until the host writes `CMD`"). -/
def idleStep (s : State) : Host.Outcome State Fault Refusal :=
  match s.hostQ with
  | [] => .next s
  | e :: q => idleEvent e (s.taken e q)

/-- While a command runs the next event happens when its time has come, else the sequencer makes one tick. -/
def busyStep (s : State) : State :=
  match s.hostWait, s.hostQ with
  | some 0, e :: q => busyEvent e (s.taken e q)
  | some (k + 1), _ => { s with hostWait := some k }.tick
  | some 0, [] => s.tick
  | none, _ => s.tick

/-- One event while the reset input is asserted: "While it is asserted, and at its release, all state takes the values of
10_state.md rule R34" (70_reset_and_hazards.md R190). A host write stores and launches nothing and is no fault, a host read
answers 0x00, which is what the read value then holds. -/
def heldEvent (e : PortEvent) (s : State) : State :=
  match e.op with
  | .write _ _ => s.hwReset
  | .read _ => s.hwReset
  | .resetInput asserted => { s.hwReset with rstIn := asserted }
  | .busChange b => s.hwReset.onLine fun l => { l with bus := b }

/-- While the reset input is asserted the next pending event happens; with none pending the block stays reset. -/
def heldStep (s : State) : State :=
  match s.hostQ with
  | [] => s.hwReset
  | e :: q => heldEvent e (s.taken e q)

/-- The host writes byte `v` to CMD and then waits for BUSY = 0 (30_encoding.md R80, a bare mnemonic). -/
def commandEvent (v : Byte) : PortEvent where
  op := .write 0x00 v
  hold := none

end Sys2Proof.Machine
end

