-- ==== Sys2Proof/Machine/Step.lean ====
section
/-! DEFINITION. One step of the machine: an event at the host port, a whole command of a host that waits, one tick of a
command that runs, or an event while the block is held in reset. -/

namespace Sys2Proof.Machine

/-- One step (log entries 1, 10, 11, 13). -/
def step (s : State) : Host.Outcome State Fault Refusal :=
  if s.rstIn then .next (heldStep s)
  else
    match s.seq with
    | .idle => idleStep s
    | .run _ => .next (busyStep s)

/-- The block out of reset and idle, with a write of the command byte `w` to CMD as the very next event of a host that waits:
the next step launches and runs it (log entry 10). The longest command has 8 bits, so higher bits of `w` do not exist. -/
def State.withFetchWord (s : State) (_nbits w : Nat) : State :=
  { s with rstIn := false, seq := .idle, hostQ := commandEvent (BitVec.ofNat 8 w) :: s.hostQ }

end Sys2Proof.Machine
end

