-- ==== Sys2Proof/Machine/HostSequences.lean ====
section
/-! DEFINITION. 46_host_sequences.md: the host's operations above the block, as the commands and host arithmetic they expand
into, and the listings of 30_encoding.md R80. "Nothing in this file is part of the block." A host that runs these waits for
BUSY = 0 after every command (70_reset_and_hazards.md R193). -/

namespace Sys2Proof.Machine

/-! ## Commands and registers as the host uses them -/

/-- A bare mnemonic (30_encoding.md R80): HostWrite(0x00, opcode), then wait for BUSY = 0. -/
def issue (i : Instr) (s : State) : State := computed i { s with cmd := i.opcode }

/-- `WR <reg>, <value>` (30_encoding.md R80). -/
def hostWrite (r : RegName) (v : Byte) (s : State) : State := s.writeReg r.address v

/-- The value of `RD <reg>` (30_encoding.md R80). -/
def hostRead (r : RegName) (s : State) : Byte := s.readReg r.address

/-- Eight host reads of 0x08 to 0x0F (46_host_sequences.md R155). -/
def hostReadRomNo (s : State) : Address :=
  #v[hostRead (.romNo 0) s, hostRead (.romNo 1) s, hostRead (.romNo 2) s, hostRead (.romNo 3) s,
     hostRead (.romNo 4) s, hostRead (.romNo 5) s, hostRead (.romNo 6) s, hostRead (.romNo 7) s]

/-- `LDADDR` (30_encoding.md R80): eight writes of ADDR[0..7]. -/
def loadAddr (A : Address) (s : State) : State :=
  (List.range 8).foldl (fun s k => hostWrite (.addr k) (A.getD k 0) s) s

/-! ## ENUMERATE -/

/-- The loop of 46_host_sequences.md R155 with `room` places left; `cmd` is SEARCH_ROM, or SEARCH_ALARM for an alarm pass. -/
def enumerateLoop (cmd : Instr) : Nat → State → List Address × State
  | 0, s => ([], s)
  | room + 1, s =>
    let t := issue cmd s
    if (hostRead .status t).getLsbD 2 then
      let rest := enumerateLoop cmd room t
      (hostReadRomNo t :: rest.1, rest.2)
    else ([], t)

/-- 46_host_sequences.md R155, `ENUMERATE max -> (list, count)`; count is the list's length. -/
def enumerate (cmd : Instr) (max : Nat) (s : State) : List Address × State :=
  enumerateLoop cmd max (issue .searchReset s)

/-! ## REQUEST_CONVERSION -/

/-- How the conversion request ended. The source's operation "returns no result"; this names what its rule distinguishes. -/
inductive ConversionEnd where
  /-- the fast-fail of 42_reset_presence.md R112 -/
  | noDevice
  /-- "completion observed" -/
  | completed
  | timedOut
  /-- the host's clock readings given to the model ran out with the wait still going on -/
  | stillWaiting
deriving DecidableEq, Repr

/-- The loop of 46_host_sequences.md R156. `elapsed` lists `now_ms() - t0` at the successive timeout tests, an input of the
host (log entry 17). -/
def conversionPoll (res : Nat) : List Nat → State → ConversionEnd × State
  | [], s => (.stillWaiting, s)
  | ms :: elapsed, s =>
    let t := issue .readBit s
    if (hostRead .data t).getLsbD 0 then (.completed, t)
    else if conversionTimeout res ≤ ms then (.timedOut, t)
    else conversionPoll res elapsed t

/-- 46_host_sequences.md R156, `REQUEST_CONVERSION res`. -/
def requestConversion (res : Nat) (elapsed : List Nat) (s : State) : ConversionEnd × State :=
  let t := issue .busReset s
  if (hostRead .status t).getLsbD 2 then
    conversionPoll res elapsed
      (issue .writeByte (hostWrite .data t.params.cmdConvertT
        (issue .writeByte (hostWrite .data t.params.cmdSkipRom t))))
  else (.noDevice, t)

/-! ## READ_TEMPERATURE -/

/-- 46_host_sequences.md R158: `raw16 = ((zext_16(SP[1]) << 11) | (zext_16(SP[0]) << 3))[15:0]`. -/
def raw16 (lsb msb : Byte) : BitVec 16 := ((msb.setWidth 16) <<< 11) ||| ((lsb.setWidth 16) <<< 3)

/-- 46_host_sequences.md R158: "at or below the disconnected-raw sentinel" is disconnected, rendered as none. -/
def rawTemperature (lsb msb : Byte) : Option Int :=
  if (raw16 lsb msb).toInt ≤ Config.rawDisconnected then none else some (raw16 lsb msb).toInt

/-- 46_host_sequences.md R158, `READ_TEMPERATURE` up to the raw value; none is DISCONNECTED. -/
def readTemperature (s : State) : Option Int × State :=
  let t := issue .isConnected s
  if (hostRead .status t).getLsbD 2 then (rawTemperature (hostRead (.sp 0) t) (hostRead (.sp 1) t), t) else (none, t)

/-- 46_host_sequences.md R159: "Celsius = raw/128.0", as an exact rational (log entry 17). -/
def celsius (raw : Int) : ℚ := raw / 128

/-- 46_host_sequences.md R159: "Fahrenheit = raw*0.0140625 + 32.0", 0.0140625 being 9/640. -/
def fahrenheit (raw : Int) : ℚ := raw * (9 / 640) + 32

/-- 46_host_sequences.md R160: the sentinels are "distinct, out-of-range values for Celsius and Fahrenheit paths". Each lies
outside the range of its unit's readings, which are those of the raw values above the disconnected one (R158) up to the
largest (log entry 23). -/
structure SentinelsWf (d : Sentinels) : Prop where
  distinct : d.disconnectedC ≠ d.disconnectedF
  celsiusOut : d.disconnectedC ≤ celsius Config.rawDisconnected ∨ celsius Config.rawMax < d.disconnectedC
  fahrenheitOut : d.disconnectedF ≤ fahrenheit Config.rawDisconnected ∨ fahrenheit Config.rawMax < d.disconnectedF

/-- What the Celsius accessor makes of a raw value, none being DISCONNECTED (46_host_sequences.md R159, R160). -/
def temperatureC (d : Sentinels) : Option Int → ℚ
  | some raw => celsius raw
  | none => d.disconnectedC

/-- The same of the Fahrenheit accessor, with its own sentinel (46_host_sequences.md R159, R160). -/
def temperatureF (d : Sentinels) : Option Int → ℚ
  | some raw => fahrenheit raw
  | none => d.disconnectedF

/-- 46_host_sequences.md R158 to R160: the Celsius accessor, `READ_TEMPERATURE` and the conversion of its result. -/
def readCelsius (d : Sentinels) (s : State) : ℚ × State :=
  let x := readTemperature s
  (temperatureC d x.1, x.2)

/-- 46_host_sequences.md R158 to R160: the Fahrenheit accessor. -/
def readFahrenheit (d : Sentinels) (s : State) : ℚ × State :=
  let x := readTemperature s
  (temperatureF d x.1, x.2)

/-! ## PARSE_ADDRESS -/

/-- The value of a hexadecimal digit; whether upper case is taken is not stated (46_host_sequences.md R161, log entry 17). -/
def hexVal (c : Char) : Option Nat :=
  if '0' ≤ c ∧ c ≤ '9' then some (c.toNat - '0'.toNat)
  else if 'a' ≤ c ∧ c ≤ 'f' then some (c.toNat - 'a'.toNat + 10)
  else if 'A' ≤ c ∧ c ≤ 'F' then
    if Config.acceptsUpperHex then some (c.toNat - 'A'.toNat + 10) else none
  else none

/-- Digits in pairs, each pair one byte, the first digit the high one. -/
def hexPairs : List Char → Option (List Byte)
  | hi :: lo :: rest => do
    let h ← hexVal hi
    let l ← hexVal lo
    let bytes ← hexPairs rest
    return BitVec.ofNat 8 (16 * h + l) :: bytes
  | [] => some []
  | [_] => none

/-- 46_host_sequences.md R161, `PARSE_ADDRESS`: exactly 16 hexadecimal digits, the leftmost pair byte 0; none is the
source's MalformedInput (60_exceptions.md R174), fatal to the host. -/
def parseAddress (digits : List Char) : Option Address :=
  match hexPairs digits with
  | some [a, b, c, d, e, f, g, h] => some #v[a, b, c, d, e, f, g, h]
  | _ => none

/-! ## Listings -/

/-- A host access followed by waiting for BUSY = 0. -/
def access (op : PortOp) : PortEvent where
  op := op
  hold := none

/-- The accesses a listing's statement stands for (30_encoding.md R80); none for a malformed address. -/
def Stmt.events : Stmt → Option (List PortEvent)
  | .wr r v => some [access (.write r.address (BitVec.ofNat 8 v))]
  | .rd r => some [access (.read r.address)]
  | .run i => some [commandEvent i.opcode]
  | .ldaddr digits =>
    (parseAddress digits).map fun A =>
      (List.range 8).map fun k => access (.write (RegName.addr k).address (A.getD k 0))

/-- The accesses of a whole listing, in order. -/
def listingEvents : List Stmt → Option (List PortEvent)
  | [] => some []
  | st :: rest => do
    let es ← Stmt.events st
    let more ← listingEvents rest
    return es ++ more

end Sys2Proof.Machine
end

