-- ==== Sys2Proof/Safety.lean ====
section
/-! DEFINITION. What a well-behaved run is, and the invariant that every step keeps. -/

namespace Sys2Proof.Machine

/-! ## What stands on the line (30_encoding.md R74, 95_test_vectors.md) -/

/-- `TX v`: eight written slots, bit 0 first. -/
def txByte (v : Byte) : List Exchange := (byteBits v).map .write

/-- `RX v`: eight read slots whose answers assemble to `v`, bit 0 first. -/
def rxByte (v : Byte) : List Exchange := (byteBits v).map .read

/-- `TX` of several bytes in order. -/
def txBytes (vs : List Byte) : List Exchange := vs.flatMap txByte

/-- `RX` of several bytes in order. -/
def rxBytes (vs : List Byte) : List Exchange := vs.flatMap rxByte

/-- 30_encoding.md R74, the scratchpad read frame after its first reset: `P` read, and `q` the answer of the closing reset. -/
def readFrameTrace (p : Params) (A : Address) (P : Pad) (q : Bool) : List Exchange :=
  txBytes (p.cmdMatchRom :: A.toList) ++ txByte p.cmdReadScratchpad ++ rxBytes P.toList ++ [.reset q]

/-- 30_encoding.md R74, the scratchpad write frame after its first reset. -/
def writeFrameTrace (p : Params) (A : Address) (th tl cfg : Byte) (q : Bool) : List Exchange :=
  txBytes (p.cmdMatchRom :: A.toList) ++ txBytes [p.cmdWriteScratchpad, th, tl, cfg] ++ [.reset q]

/-- 30_encoding.md R74, one position of a search: `r`, `r`, `w`. -/
def positionTrace (idBit cmpBit dir : Bool) : List Exchange := [.read idBit, .read cmpBit, .write dir]

/-- From line state `l` to `m`, `exchanges` exchanges were made and the DELAYs came to `time` microseconds (20_memory.md R42,
70_reset_and_hazards.md R200). -/
def Line.Takes (l m : Line) (exchanges time : Nat) : Prop :=
  m.trace.length = l.trace.length + exchanges ∧ m.elapsed = l.elapsed + time

/-! ## What commands write (30_encoding.md R77) -/

/-- The flags a command leaves: its four results and the sticky FAULT as it was (10_state.md R17). -/
def Flags.result (f : Flags) (presence ok crcOk nonzero : Bool) : Flags where
  presence := presence
  ok := ok
  crcOk := crcOk
  nonzero := nonzero
  fault := f.fault

/-- 30_encoding.md R77, the column "writes (besides `STATUS`, `ERR`)". -/
def writesReg : Instr → RegName → Bool
  | .readBit, .data => true
  | .readByte, .data => true
  | .crcInit, .crc => true
  | .crcByte, .crc => true
  | .checkAddr, .crc => true
  | .checkSp, .crc => true
  | .searchReset, .ld => true
  | .searchReset, .lfd => true
  | .searchReset, .ldf => true
  | .searchRom, .ld => true
  | .searchRom, .lfd => true
  | .searchRom, .ldf => true
  | .searchRom, .romNo _ => true
  | .searchAlarm, .ld => true
  | .searchAlarm, .lfd => true
  | .searchAlarm, .ldf => true
  | .searchAlarm, .romNo _ => true
  | .readScratchpad, .sp _ => true
  | .isConnected, .sp _ => true
  | .isConnected, .crc => true
  | .setResolution, .sp _ => true
  | .setResolution, .crc => true
  | .setResolution, .wth => true
  | .setResolution, .wtl => true
  | .setResolution, .wcfg => true
  | _, _ => false

/-- 10_state.md R14, R22 to R24: what a register reads as after a host write of `v` while BUSY = 0, `old` being what it read
as before. -/
def storedByte (r : RegName) (old v : Byte) : Byte :=
  match r with
  | .cmd | .status | .err | .crc => old
  | .ld => v &&& 0x7F
  | .lfd => v &&& 0x0F
  | .ldf => v &&& 0x01
  | .data | .romNo _ | .addr _ | .sp _ | .wth | .wtl | .wcfg => v

/-- The lower-case hexadecimal digit of a value below 16. -/
def hexDigit (n : Nat) : Char :=
  if n < 10 then Char.ofNat ('0'.toNat + n) else Char.ofNat ('a'.toNat + n - 10)

/-- The 16 lower-case digits of an address, the high digit of byte 0 first. -/
def addressDigits (A : Address) : List Char :=
  A.toList.flatMap fun v => [hexDigit (v.toNat / 16), hexDigit (v.toNat % 16)]

/-- 44_search.md R135: "lexicographic order of the addresses read as strings of 64 bits with position 1 first and 0 ordered
before 1". -/
def addressBefore (A B : Address) : Prop :=
  ∃ n, 1 ≤ n ∧ n ≤ 64 ∧ (∀ m, 1 ≤ m → m < n → abit A m = abit B m) ∧ abit A n = false ∧ abit B n = true

/-! ## Nominal time (70_reset_and_hazards.md R200) -/

/-- 41_transport.md R100: how long a write slot takes. -/
def writeTime (d : Durations) (b : Bool) : Nat := if b then d.w1Low + d.w1Rel else d.w0Low + d.w0Rel

/-- 41_transport.md R103: how long a read byte takes, its eight settle delays included. -/
def readByteTime (d : Durations) : Nat := 8 * (d.rLow + d.rWait + d.rPad + d.rBitGap)

/-! ## Runs and the invariant -/

/-- 70_reset_and_hazards.md R193: the host of a correct program waits for BUSY = 0 before every access. -/
def State.serialized (s : State) : Prop := ∀ e ∈ s.hostQ, e.hold = none

/-- 60_exceptions.md R175: no misuse recorded so far. -/
def State.faultFree (s : State) : Prop := s.flags.fault = false

/-- Whether the line is released once the micro-operations still to come have run. -/
def endsReleased : Bool → List MicroOp → Bool
  | owOe, [] => !owOe
  | _, .driveLow :: ops => endsReleased true ops
  | _, .release :: ops => endsReleased false ops
  | owOe, .sample :: ops => endsReleased owOe ops
  | owOe, .delay _ :: ops => endsReleased owOe ops

/-- The sequencer's part of the invariant. While idle the line is released (40_signal_primitives.md R96). While a command runs
it will be at the end of the exchange in progress, and neither OK nor an error has been reported yet (10_state.md R17, R18). -/
def State.seqInv (s : State) : Prop :=
  match s.seq with
  | .idle => s.line.owOe = false
  | .run r => endsReleased s.line.owOe r.ops = true ∧ s.flags.ok = false ∧ s.err = .none

/-- 10_state.md R34, 70_reset_and_hazards.md R190: what hardware reset makes of the block, at every address of the port, at
the line and in the sequencer. -/
structure State.Cleared (s : State) : Prop where
  registers : ∀ a : BitVec 6, s.readReg a = 0x00
  released : s.line.owOe = false
  idle : s.seq = .idle

/-- The invariant: the line's discipline; a result is never both OK and an error (60_exceptions.md R176); the block never
reports MalformedInput (60_exceptions.md R174); a block held in reset is cleared (70_reset_and_hazards.md R190). -/
structure State.Inv (s : State) : Prop where
  seq : s.seqInv
  okNoError : s.flags.ok = true → s.err = .none
  notMalformed : s.err ≠ .malformedInput
  held : s.rstIn = true → s.Cleared

end Sys2Proof.Machine
end

