-- ==== Sys2Proof/Certificates/Slice0/Obligations.lean ====
section
/-! DEFINITION. The statements for the provers. Each docstring names the rule of the spec it formalises. -/

open Sys2Proof Sys2Proof.Machine

/-! ## Encoding and the register map -/

/-- 30_encoding.md R75: the whole opcode map, and that nothing else is a command. -/
def Obligations.OpcodeMap : Prop :=
  decodeTableWord 8 0x01 = some .writeBit ∧ decodeTableWord 8 0x02 = some .readBit ∧
  decodeTableWord 8 0x03 = some .writeByte ∧ decodeTableWord 8 0x04 = some .readByte ∧
  decodeTableWord 8 0x05 = some .busReset ∧ decodeTableWord 8 0x06 = some .crcInit ∧
  decodeTableWord 8 0x07 = some .crcByte ∧ decodeTableWord 8 0x08 = some .checkAddr ∧
  decodeTableWord 8 0x09 = some .checkSp ∧ decodeTableWord 8 0x0A = some .searchReset ∧
  decodeTableWord 8 0x0B = some .searchRom ∧ decodeTableWord 8 0x0C = some .searchAlarm ∧
  decodeTableWord 8 0x0D = some .readScratchpad ∧ decodeTableWord 8 0x0E = some .writeScratchpad ∧
  decodeTableWord 8 0x0F = some .isConnected ∧ decodeTableWord 8 0x10 = some .setResolution ∧
  ∀ op : Byte, (∃ i, decodeOpcode op = .ok i) ↔ 0x01 ≤ op.toNat ∧ op.toNat ≤ 0x10

/-- 30_encoding.md R71, R75, R79: bytes decode to a command exactly when they are its encoding with the rest behind it. -/
def Obligations.DecodeIsTheInverseOfEncode : Prop :=
  ∀ (bytes : List Byte) (i : Instr) (rest : List Byte),
    decode bytes = .ok (i, rest) ↔ bytes = encode i ++ rest

/-- 10_state.md R14, R29: the addresses of the register map, that every register has its own below 0x24, and that nothing
stands at 0x24 to 0x3F. -/
def Obligations.RegisterMapIsOneToOne : Prop :=
  (RegName.cmd.address = 0x00 ∧ RegName.status.address = 0x01 ∧ RegName.err.address = 0x02 ∧ RegName.data.address = 0x03 ∧
    RegName.crc.address = 0x04 ∧ RegName.ld.address = 0x05 ∧ RegName.lfd.address = 0x06 ∧ RegName.ldf.address = 0x07 ∧
    (∀ k, k < 8 → (RegName.romNo k).address.toNat = 0x08 + k) ∧
    (∀ k, k < 8 → (RegName.addr k).address.toNat = 0x10 + k) ∧
    (∀ k, k < 9 → (RegName.sp k).address.toNat = 0x18 + k) ∧
    RegName.wth.address = 0x21 ∧ RegName.wtl.address = 0x22 ∧ RegName.wcfg.address = 0x23) ∧
  (∀ r : RegName, r.wf = true → regAt r.address = some r ∧ r.address.toNat < 0x24) ∧
  (∀ (a : BitVec 6) (r : RegName), regAt a = some r → r.wf = true ∧ r.address = a) ∧
  (∀ a : BitVec 6, regAt a = none ↔ 0x24 ≤ a.toNat)

/-! ## The host port -/

/-- 10_state.md R15, 20_memory.md R52: a write of a legal opcode to CMD by a host that then waits runs that command on the
state in which CMD holds the opcode and the event has left the queue. -/
def Obligations.StepRunsTheDecodedCommand : Prop :=
  ∀ (s : State) (v : Byte) (i : Instr) (q : List PortEvent),
    s.rstIn = false → s.seq = .idle → s.hostQ = ⟨.write 0x00 v, none⟩ :: q → decode [v] = .ok (i, []) →
    step s = exec i { s with cmd := v, hostQ := q, hostWait := none }

/-- 10_state.md R15, R17, R20: a host that does not wait leaves the command running: the step answers `State.begin` of the
command, in which BUSY is 1 and the results are cleared. While no event is due, because the host waits for BUSY = 0, because
the next event comes later, or because none is left, each further step is one tick (ticks and holds: log entry 11). -/
def Obligations.LaunchLeavesTheCommandRunning : Prop :=
  (∀ (s : State) (v : Byte) (i : Instr) (k : Nat) (q : List PortEvent),
    s.rstIn = false → s.seq = .idle → s.hostQ = ⟨.write 0x00 v, some k⟩ :: q → decode [v] = .ok (i, []) →
    step s = .next (({ s with cmd := v, hostQ := q, hostWait := some k } : State).begin i) ∧
    ∃ r : SeqRegs, r.cmd = i ∧
      ({ s with cmd := v, hostQ := q, hostWait := some k } : State).begin i = { s with
        cmd := v, flags := s.flags.result false false false false, err := .none, seq := .run r, hostQ := q,
        hostWait := some k }) ∧
  (∀ (s : State) (r : SeqRegs), s.rstIn = false → s.seq = .run r →
    (s.hostWait = none → step s = .next s.tick) ∧
    (∀ k : Nat, s.hostWait = some (k + 1) → step s = .next { s with hostWait := some k }.tick) ∧
    (s.hostWait = some 0 → s.hostQ = [] → step s = .next s.tick))

/-- 30_encoding.md R76: an illegal opcode stores CMD, clears the results, sets ERR to 5 and the sticky FAULT, and changes
nothing else: no exchange, BUSY stays 0. ERR then reads 0x05 and STATUS 0x80. -/
def Obligations.IllegalOpcodeIsRecorded : Prop :=
  ∀ (s : State) (v : Byte) (h : Option Nat) (q : List PortEvent),
    s.rstIn = false → s.seq = .idle → s.hostQ = ⟨.write 0x00 v, h⟩ :: q → (v.toNat = 0 ∨ 0x11 ≤ v.toNat) →
    ∃ t : State, step s = .next t ∧
      t = { s with
        cmd := v
        flags := { presence := false, ok := false, crcOk := false, nonzero := false, fault := true }
        err := .illegalCommand
        hostQ := q
        hostWait := h } ∧
      t.reg .err = 0x05 ∧ t.reg .status = 0x80

/-- 10_state.md R14, R22, R23, R24, R29: a host write while idle stores the used bits of its register, changes no other
register, does nothing at a read-only or a reserved address, and never touches the line. -/
def Obligations.IdleHostWriteStoresOneRegister : Prop :=
  ∀ (s : State) (a : BitVec 6) (v : Byte) (h : Option Nat) (q : List PortEvent),
    s.rstIn = false → s.seq = .idle → s.hostQ = ⟨.write a v, h⟩ :: q → a ≠ 0x00 →
    ∃ t : State, step s = .next t ∧
      (∀ r : RegName, r.wf = true →
        t.reg r = if r.address = a then storedByte r (s.reg r) v else s.reg r) ∧
      t.line = s.line ∧ t.seq = .idle ∧ t.flags = s.flags ∧ t.err = s.err ∧ t.hostQ = q ∧ t.params = s.params ∧
      t.rdata = s.rdata

/-- 10_state.md R13, R14, R29, 20_memory.md R50 ("Host register reads have no side effects"): a host read while idle answers
the register at its address, 0x00 at a reserved one, and changes nothing of the block. -/
def Obligations.IdleHostReadAnswersTheRegister : Prop :=
  ∀ (s : State) (a : BitVec 6) (h : Option Nat) (q : List PortEvent),
    s.rstIn = false → s.seq = .idle → s.hostQ = ⟨.read a, h⟩ :: q →
    (∀ r : RegName, r.wf = true → r.address = a →
      step s = .next { s with rdata := s.reg r, hostQ := q, hostWait := h }) ∧
    (0x24 ≤ a.toNat → step s = .next { s with rdata := 0x00, hostQ := q, hostWait := h })

/-- 10_state.md R35: while a command runs a read of STATUS is exact and shows BUSY, a read of another register answers a value
nothing constrains, and a write of a register is ignored and sets FAULT. In each case nothing else changes. (A free value:
`Config.freeRead` has no body.) -/
def Obligations.BusyAccessIsTurnedAway : Prop :=
  ∀ (s : State) (r : SeqRegs) (x : RegName) (h : Option Nat) (q : List PortEvent),
    s.rstIn = false → s.seq = .run r → s.hostWait = some 0 → x.wf = true →
    (s.hostQ = ⟨.read x.address, h⟩ :: q → x = .status →
      step s = .next { s with rdata := s.status, hostQ := q, hostWait := h } ∧ s.status.getLsbD 0 = true) ∧
    (s.hostQ = ⟨.read x.address, h⟩ :: q → x ≠ .status →
      step s = .next { s with
        rdata := Config.freeRead s.freeReads, freeReads := s.freeReads + 1, hostQ := q, hostWait := h }) ∧
    (∀ v : Byte, s.hostQ = ⟨.write x.address v, h⟩ :: q →
      step s = .next { s with flags := { s.flags with fault := true }, hostQ := q, hostWait := h })

/-- 10_state.md R17, R20: the bits of STATUS, and that the host reads them, exactly, at any time it is due: bit 0 BUSY, bit 1
PRESENCE, bit 2 OK, bit 3 CRC_OK, bit 4 NONZERO, bits 5 and 6 zero, bit 7 FAULT. -/
def Obligations.StatusLayout : Prop :=
  ∀ (s : State) (h : Option Nat) (q : List PortEvent),
    s.rstIn = false → (s.seq = .idle ∨ s.hostWait = some 0) → s.hostQ = ⟨.read 0x01, h⟩ :: q →
    ∃ t : State, step s = .next t ∧
      (t.rdata.getLsbD 0 = true ↔ s.seq ≠ .idle) ∧ t.rdata.getLsbD 1 = s.flags.presence ∧
      t.rdata.getLsbD 2 = s.flags.ok ∧ t.rdata.getLsbD 3 = s.flags.crcOk ∧ t.rdata.getLsbD 4 = s.flags.nonzero ∧
      t.rdata.getLsbD 5 = false ∧ t.rdata.getLsbD 6 = false ∧ t.rdata.getLsbD 7 = s.flags.fault

/-- 60_exceptions.md R170, 10_state.md R18: the code of each error as the host reads it from ERR. Codes 6 and 7 are never
read. -/
def Obligations.ErrorCodes : Prop :=
  ∀ (s : State) (h : Option Nat) (q : List PortEvent),
    s.rstIn = false → s.seq = .idle → s.hostQ = ⟨.read 0x02, h⟩ :: q →
    ∃ t : State, step s = .next t ∧
      (s.err = .none → t.rdata = 0x00) ∧ (s.err = .busAbsent → t.rdata = 0x01) ∧ (s.err = .searchAborted → t.rdata = 0x02) ∧
      (s.err = .integrityFailure → t.rdata = 0x03) ∧ (s.err = .malformedInput → t.rdata = 0x04) ∧
      (s.err = .illegalCommand → t.rdata = 0x05) ∧ t.rdata ≠ 0x06 ∧ t.rdata ≠ 0x07

/-- 70_reset_and_hazards.md R190, 10_state.md R34: asserting the reset input, while the block is idle or in the middle of a
command, leaves every register reading 0x00, the line released and SEQ idle; the exchanges already made stay made (log entry
13). -/
def Obligations.HardwareResetClearsTheBlock : Prop :=
  ∀ (s : State) (h : Option Nat) (q : List PortEvent),
    s.rstIn = false → (s.seq = .idle ∨ s.hostWait = some 0) → s.hostQ = ⟨.resetInput true, h⟩ :: q →
    ∃ t : State, step s = .next t ∧ t.Cleared ∧ t.rstIn = true ∧ t.line.trace = s.line.trace ∧
      t.line.bus = s.line.bus ∧ t.hostQ = q ∧ t.params = s.params

/-- 70_reset_and_hazards.md R190: "While it is asserted, and at its release, all state takes the values of 10_state.md rule
R34". Whatever the host does meanwhile, every register reads 0x00 after it, FAULT too, and no exchange is made; the input stays
asserted until it is released (the events of the reset input: log entry 13). That the read value of the host port is 0x00 then,
whatever the event, is the model's choice of its reset value (log entry 8): R34 gives it none. -/
def Obligations.ResetHoldsTheBlock : Prop :=
  ∀ s : State, s.rstIn = true →
    ∃ t : State, step s = .next t ∧ t.Cleared ∧ t.rdata = 0x00 ∧ t.line.trace = s.line.trace ∧
      t.line.elapsed = s.line.elapsed ∧ t.hostQ = s.hostQ.tail ∧ t.params = s.params ∧
      (t.rstIn = false ↔ ∃ h q, s.hostQ = ⟨.resetInput false, h⟩ :: q)

/-! ## Reset, invariants, whole-machine rules -/

/-- 10_state.md R34: what hardware reset leaves. -/
def Obligations.ResetReadsZero : Prop :=
  (∀ r : RegName, State.reset.reg r = 0x00) ∧ State.reset.line.owOe = false ∧ State.reset.seq = .idle

/-- The invariant of Safety.lean holds at reset. -/
def Obligations.ResetMeetsTheInvariant : Prop := State.reset.Inv

/-- 40_signal_primitives.md R96, 60_exceptions.md R174, R176: every step from every state keeps the invariant: while idle the
line is released, a slot in progress ends released, OK and an error code are never both reported, MalformedInput is never
reported; and (70_reset_and_hazards.md R190) a block held in reset is cleared. -/
def Obligations.StepKeepsTheInvariant : Prop :=
  ∀ s t : State, s.Inv → step s = .next t → t.Inv

/-- 60_exceptions.md R176, R179: there is no trap, no hang and no stuck state: every step answers a next state. -/
def Obligations.EveryStepAnswers : Prop := ∀ s : State, ∃ t : State, step s = .next t

/-- 60_exceptions.md R175: "`FAULT` is cleared only by hardware reset": a step from a state of the invariant keeps it, unless
it is the one that takes a due event asserting the reset input. -/
def Obligations.FaultIsSticky : Prop :=
  ∀ s t : State, s.Inv → step s = .next t → s.flags.fault = true →
    t.flags.fault = true ∨
      ((s.seq = .idle ∨ s.hostWait = some 0) ∧ ∃ h q, s.hostQ = ⟨.resetInput true, h⟩ :: q)

/-- 60_exceptions.md R175, 10_state.md R29, R35: FAULT is set by an illegal opcode written while idle, by a write of a register
while busy, and by nothing else. That a write to a reserved address while busy is none of a register (the bound 0x24) is the
model's reading of R29 beside R35: log entry 6. -/
def Obligations.OnlyMisuseSetsFault : Prop :=
  ∀ s t : State, step s = .next t → s.flags.fault = false → t.flags.fault = true →
    s.rstIn = false ∧
    ∃ (a : BitVec 6) (v : Byte) (h : Option Nat) (q : List PortEvent), s.hostQ = ⟨.write a v, h⟩ :: q ∧
      ((s.seq = .idle ∧ a = 0x00 ∧ ∃ e, decodeOpcode v = .error e) ∨
        ((∃ r, s.seq = .run r) ∧ s.hostWait = some 0 ∧ a.toNat < 0x24))

/-- 70_reset_and_hazards.md R193, R195: a host that waits for BUSY = 0 before every access and writes only legal opcodes to
CMD sees a block that is idle between its accesses and never records a fault: the invariant of such runs. -/
def Obligations.SerializedHostSeesNoFault : Prop :=
  ∀ s t : State, s.seq = .idle → s.serialized → s.faultFree →
    (∀ e ∈ s.hostQ, ∀ v : Byte, e.op = .write 0x00 v → ∃ i, decodeOpcode v = .ok i) →
    step s = .next t →
    t.seq = .idle ∧ t.serialized ∧ t.faultFree ∧
      (∀ e ∈ t.hostQ, ∀ v : Byte, e.op = .write 0x00 v → ∃ i, decodeOpcode v = .ok i)

/-- 10_state.md R32: "No command's behaviour depends on a `STATUS` flag left by an earlier command", nor on ERR. -/
def Obligations.StaleResultsNeverMatter : Prop :=
  ∀ (i : Instr) (s : State) (f : Flags) (e : ErrCode), f.fault = s.flags.fault →
    exec i { s with flags := f, err := e } = exec i s

/-- 30_encoding.md R77, the frame of every command over the register map: it completes idle, a register its row does not name
keeps its value (STATUS and ERR apart), FAULT, the host port, the configuration and the free values drawn by reads are
untouched, and a command without bus activity leaves the line alone. -/
def Obligations.CommandsWriteOnlyTheirRegisters : Prop :=
  ∀ (i : Instr) (s : State), ∃ t : State, exec i s = .next t ∧
    (∀ r : RegName, r ≠ .status → r ≠ .err → writesReg i r = false → t.reg r = s.reg r) ∧
    t.seq = .idle ∧ t.flags.fault = s.flags.fault ∧ t.rdata = s.rdata ∧ t.hostQ = s.hostQ ∧
    t.hostWait = s.hostWait ∧ t.freeReads = s.freeReads ∧ t.params = s.params ∧
    (i ∈ [.crcInit, .crcByte, .checkAddr, .checkSp, .searchReset] → t.line = s.line)

/-- 10_state.md R20, 20_memory.md R52: a launched command that is left alone ends, after finitely many ticks, in exactly the
state of its atomic meaning. -/
def Obligations.SequencerRefinesExec : Prop :=
  ∀ (i : Instr) (s : State), ∃ k : Nat, exec i s = .next (State.ticks k (s.begin i))

/-! ## Transport and bus reset -/

/-- 41_transport.md R104: WRITE_BIT. -/
def Obligations.WriteBitSendsBitZero : Prop :=
  ∀ s : State, exec .writeBit s = .next { s with
    flags := s.flags.result false true false false
    err := .none
    seq := .idle
    line := {
      owOe := false
      elapsed := s.line.elapsed + writeTime s.params.dur (s.data.getLsbD 0)
      bus := s.line.bus.write s.params (s.data.getLsbD 0)
      trace := s.line.trace ++ [.write (s.data.getLsbD 0)] } }

/-- 41_transport.md R105: READ_BIT. -/
def Obligations.ReadBitStoresTheAnswer : Prop :=
  ∀ s : State, exec .readBit s = .next { s with
    flags := s.flags.result false true false false
    err := .none
    seq := .idle
    data := if s.line.bus.read.1 then 0x01 else 0x00
    line := {
      owOe := false
      elapsed := s.line.elapsed + s.params.dur.rLow + s.params.dur.rWait + s.params.dur.rPad
      bus := s.line.bus.read.2
      trace := s.line.trace ++ [.read s.line.bus.read.1] } }

/-- 41_transport.md R106: WRITE_BYTE sends the eight bits of DATA, bit 0 first, and keeps DATA. -/
def Obligations.WriteByteSendsEightBits : Prop :=
  ∀ s : State, ∃ l : Line,
    exec .writeByte s = .next { s with
      flags := s.flags.result false true false false, err := .none, seq := .idle, line := l } ∧
    l.owOe = false ∧
    l.trace = s.line.trace ++ [
      .write (s.data.getLsbD 0), .write (s.data.getLsbD 1), .write (s.data.getLsbD 2), .write (s.data.getLsbD 3),
      .write (s.data.getLsbD 4), .write (s.data.getLsbD 5), .write (s.data.getLsbD 6), .write (s.data.getLsbD 7)]

/-- 41_transport.md R107: READ_BYTE stores the eight answers, the first in bit 0; they are the answers the bus gives, in the
order it gives them. -/
def Obligations.ReadByteStoresEightAnswers : Prop :=
  ∀ s : State, ∃ (v : Byte) (l : Line),
    exec .readByte s = .next { s with
      flags := s.flags.result false true false false, err := .none, seq := .idle, data := v, line := l } ∧
    l.owOe = false ∧
    l.trace = s.line.trace ++ [
      .read (v.getLsbD 0), .read (v.getLsbD 1), .read (v.getLsbD 2), .read (v.getLsbD 3),
      .read (v.getLsbD 4), .read (v.getLsbD 5), .read (v.getLsbD 6), .read (v.getLsbD 7)] ∧
    (∀ (w : Byte) (rest : List Bool) (d : Nat),
      s.line.bus = .free (byteBits w ++ rest) d → v = w ∧ l.bus = .free rest d)

/-- 42_reset_presence.md R111: BUS_RESET. -/
def Obligations.BusResetReportsPresence : Prop :=
  ∀ s : State, exec .busReset s = .next { s with
    flags := s.flags.result s.line.bus.reset.1 s.line.bus.reset.1 false false
    err := if s.line.bus.reset.1 then .none else .busAbsent
    seq := .idle
    line := {
      owOe := false
      elapsed := s.line.elapsed + s.params.dur.rstLow + s.params.dur.rstWait + s.params.dur.rstPad
      bus := s.line.bus.reset.2
      trace := s.line.trace ++ [.reset s.line.bus.reset.1] } }

/-- 42_reset_presence.md R111, its property of the simulated bus, under the reference device model of 20_memory.md R47 (log
entry 15): BUS_RESET reports presence exactly when there is a device. -/
def Obligations.PresenceOnTheReferenceBus : Prop :=
  ∀ (s : State) (ds : List Device), s.line.bus = .devices ds →
    ∃ t : State, exec .busReset s = .next t ∧ (t.flags.presence = true ↔ ds ≠ []) ∧ (t.flags.ok = true ↔ ds ≠ []) ∧
      (t.err = .busAbsent ↔ ds = [])

/-- 41_transport.md R105, R107, corner cases, under the reference device model of 20_memory.md R47 (log entry 15): on a line
without devices every read bit is 1 and no error is reported, "the command cannot tell silence from a byte of ones". -/
def Obligations.SilenceReadsAsOnes : Prop :=
  ∀ s : State, s.line.bus = .devices [] →
    (∃ t : State, exec .readBit s = .next t ∧ t.data = 0x01 ∧ t.flags.ok = true ∧ t.err = .none) ∧
    (∃ t : State, exec .readByte s = .next t ∧ t.data = 0xFF ∧ t.flags.ok = true ∧ t.err = .none)

/-- 42_reset_presence.md R112, the fast-fail rule: a composite command whose first reset finds no presence makes no further
exchange, reports BusAbsent and OK = 0. (A search with LDF = 1 makes none at all.) -/
def Obligations.NoPresenceEndsTheCommand : Prop :=
  ∀ (i : Instr) (s : State),
    i ∈ [.searchRom, .searchAlarm, .readScratchpad, .writeScratchpad, .isConnected, .setResolution] →
    (i ∈ [.searchRom, .searchAlarm] → s.ldf = false) → s.line.bus.reset.1 = false →
    ∃ t : State, exec i s = .next t ∧ t.line.trace = s.line.trace ++ [.reset false] ∧
      t.flags = s.flags.result false false false false ∧ t.err = .busAbsent ∧ t.sp = s.sp ∧ t.crc = s.crc ∧
      t.wth = s.wth ∧ t.wtl = s.wtl ∧ t.wcfg = s.wcfg ∧ t.romNo = s.romNo ∧ t.data = s.data ∧ t.addr = s.addr

/-! ## CRC -/

/-- 43_crc8.md R119: CRC_INIT. -/
def Obligations.CrcInitClearsTheAccumulator : Prop :=
  ∀ s : State, exec .crcInit s = .next { s with
    flags := s.flags.result false true false false, err := .none, seq := .idle, crc := 0x00 }

/-- 43_crc8.md R120: CRC_BYTE, and that CRC_INIT followed by CRC_BYTE for each byte of a list leaves the CRC-8 of the list. -/
def Obligations.CrcByteStreams : Prop :=
  (∀ s : State, exec .crcByte s = .next { s with
    flags := s.flags.result false true false false, err := .none, seq := .idle, crc := crc8Step s.crc s.data }) ∧
  (∀ (bytes : List Byte) (s : State),
    (bytes.foldl (fun s v => issue .crcByte (hostWrite .data v s)) (issue .crcInit s)).crc = crc8 bytes)

/-- 43_crc8.md R121: CHECK_ADDR. -/
def Obligations.CheckAddrComparesTheLastByte : Prop :=
  ∀ (s : State) (c : Byte) (good : Bool),
    c = crc8 [s.addr[0], s.addr[1], s.addr[2], s.addr[3], s.addr[4], s.addr[5], s.addr[6]] →
    good = decide (c = s.addr[7]) →
    exec .checkAddr s = .next { s with
      flags := s.flags.result false good good false
      err := if good then .none else .integrityFailure
      seq := .idle
      crc := c }

/-- 43_crc8.md R122: CHECK_SP. -/
def Obligations.CheckSpTestsCrcAndZero : Prop :=
  ∀ (s : State) (c : Byte) (good nonzero : Bool),
    c = crc8 [s.sp[0], s.sp[1], s.sp[2], s.sp[3], s.sp[4], s.sp[5], s.sp[6], s.sp[7]] →
    good = decide (c = s.sp[8]) →
    nonzero = decide (∃ k : Fin 9, s.sp[k] ≠ 0x00) →
    exec .checkSp s = .next { s with
      flags := s.flags.result false (good && nonzero) good nonzero
      err := if good && nonzero then .none else .integrityFailure
      seq := .idle
      crc := c }

/-- 43_crc8.md R118: the table step is the bit-serial step of the polynomial 0x8C. -/
def Obligations.TableStepIsBitSerial : Prop :=
  ∀ c b : Byte, crc8Step c b = crc8BitsStep c b

/-- 43_crc8.md R123: residue zero, zero of zeros, and that changing one byte of a list (a fortiori one bit) changes its CRC. -/
def Obligations.CrcDetectsOneByteErrors : Prop :=
  (∀ bytes : List Byte, crc8 (bytes ++ [crc8 bytes]) = 0x00) ∧
  (∀ n : Nat, crc8 (List.replicate n 0x00) = 0x00) ∧
  (∀ (front back : List Byte) (v w : Byte), v ≠ w → crc8 (front ++ v :: back) ≠ crc8 (front ++ w :: back))

/-! ## Search -/

/-- 44_search.md R126: SEARCH_RESET. -/
def Obligations.SearchResetClearsTheState : Prop :=
  ∀ s : State, exec .searchReset s = .next { s with
    flags := s.flags.result false true false false, err := .none, seq := .idle, ld := 0, lfd := 0, ldf := false }

/-- 44_search.md R133: with LDF = 1 a search ends at once, without an exchange and without an error. -/
def Obligations.ExhaustedSearchTouchesNothing : Prop :=
  ∀ (i : Instr) (s : State), i ∈ [.searchRom, .searchAlarm] → s.ldf = true →
    exec i s = .next { s with flags := s.flags.result false false false false, err := .none, seq := .idle }

/-- 44_search.md R132: no presence clears the search state and reports BusAbsent; ROM_NO is unchanged. -/
def Obligations.SearchWithoutPresenceClears : Prop :=
  ∀ (i : Instr) (s : State), i ∈ [.searchRom, .searchAlarm] → s.ldf = false → s.line.bus.reset.1 = false →
    exec i s = .next { s with
      flags := s.flags.result false false false false
      err := .busAbsent
      seq := .idle
      ld := 0
      lfd := 0
      ldf := false
      line := {
        owOe := false
        elapsed := s.line.elapsed + s.params.dur.rstLow + s.params.dur.rstWait + s.params.dur.rstPad
        bus := s.line.bus.reset.2
        trace := s.line.trace ++ [.reset false] } }

/-- 44_search.md R127, R130, R131, R134: a search with a device present goes through positions 1 to `m` and is found when
`m = 64`, else aborted at position `m + 1`. `ans n` is the pair of bits read at position `n`; the trace says what was read and
written. At each position the direction is the forced bit, or at a discrepancy the old bit of ROM_NO below LD, 1 at LD, 0
above; it is written to the bus and stored in ROM_NO, whose later positions stay. LD is the last position at which 0 was taken
at a discrepancy, LFD the last such among the first eight (else unchanged), LDF is set when there was none. -/
def Obligations.SearchFollowsTheTree : Prop :=
  ∀ (s : State) (i : Instr) (c : Byte),
    (i, c) ∈ [(Instr.searchRom, s.params.cmdSearchRom), (Instr.searchAlarm, s.params.cmdSearchAlarm)] →
    s.ldf = false → s.line.bus.reset.1 = true →
    ∃ (ans : Nat → Bool × Bool) (m : Nat) (t : State),
      exec i s = .next t ∧ m ≤ 64 ∧
      t = { s with
        flags := s.flags.result true (decide (m = 64)) false false
        err := if m = 64 then .none else .searchAborted
        seq := .idle
        ld := t.ld
        lfd := t.lfd
        ldf := t.ldf
        romNo := t.romNo
        line := t.line } ∧
      t.line.owOe = false ∧
      t.line.trace = s.line.trace ++ [.reset true] ++ txByte c ++
        (List.range m).flatMap (fun j => positionTrace (ans (j + 1)).1 (ans (j + 1)).2 (abit t.romNo (j + 1))) ++
        (if m = 64 then [] else [.read true, .read true]) ∧
      (∀ n, 1 ≤ n → n ≤ m → ans n ≠ (true, true) ∧
        abit t.romNo n =
          if (ans n).1 ≠ (ans n).2 then (ans n).1
          else if n < s.ld.toNat then abit s.romNo n
          else decide (n = s.ld.toNat)) ∧
      (∀ n, m < n → n ≤ 64 → abit t.romNo n = abit s.romNo n) ∧
      (m < 64 → t.ld = 0 ∧ t.lfd = 0 ∧ t.ldf = false) ∧
      (m = 64 →
        t.ld.toNat =
          (((List.range 64).filter fun j => ans (j + 1) = (false, false) ∧ abit t.romNo (j + 1) = false).getLast?.map
            (· + 1)).getD 0 ∧
        t.lfd.toNat =
          (((List.range 8).filter fun j => ans (j + 1) = (false, false) ∧ abit t.romNo (j + 1) = false).getLast?.map
            (· + 1)).getD s.lfd.toNat ∧
        t.ldf = decide (t.ld = 0))

/-- 44_search.md R128 (single device), R135 with one device, under the reference device model of 20_memory.md R47 (log entry
15): a search finds the only device on the bus whatever LD, LFD and ROM_NO held, and it is the last one. SEARCH_ALARM finds it
when it is alarmed. -/
def Obligations.SearchFindsTheOnlyDevice : Prop :=
  ∀ (s : State) (d : Device) (i : Instr), s.line.bus = .devices [d] → s.ldf = false →
    (i = .searchRom ∨ (i = .searchAlarm ∧ d.alarm = true)) →
    ∃ l : Line,
      exec i s = .next { s with
        flags := s.flags.result true true false false
        err := .none
        seq := .idle
        ld := 0
        ldf := true
        romNo := d.rom
        line := l } ∧
      l.bus = .devices [{ d with mode := .func [] }] ∧ l.trace.length = s.line.trace.length + 201

/-- 44_search.md R129, corner case, under the reference device model (log entry 15): devices are present, none is alarmed, and
the alarm search aborts at position 1 after 11 exchanges. -/
def Obligations.AlarmSearchWithoutAlarmAborts : Prop :=
  ∀ (s : State) (ds : List Device), s.line.bus = .devices ds → ds ≠ [] → (∀ d ∈ ds, d.alarm = false) →
    s.ldf = false → s.params.cmdSearchAlarm ≠ s.params.cmdSearchRom →
    ∃ l : Line,
      exec .searchAlarm s = .next { s with
        flags := s.flags.result true false false false
        err := .searchAborted
        seq := .idle
        ld := 0
        lfd := 0
        ldf := false
        line := l } ∧
      l.trace = s.line.trace ++ [.reset true] ++ txByte s.params.cmdSearchAlarm ++ [.read true, .read true]

/-! ## Scratchpad -/

/-- 45_scratchpad.md R143 with R141: READ_SCRATCHPAD when the first reset finds presence: the whole frame on the line, and SP
the nine bytes that were read, whatever they are. -/
def Obligations.ReadScratchpadStoresWhatWasRead : Prop :=
  ∀ s : State, s.line.bus.reset.1 = true →
    ∃ (P : Pad) (l : Line) (q : Bool),
      exec .readScratchpad s = .next { s with
        flags := s.flags.result true true false false, err := .none, seq := .idle, sp := P, line := l } ∧
      l.owOe = false ∧
      l.trace = s.line.trace ++ [.reset true] ++ readFrameTrace s.params s.addr P q

/-- 45_scratchpad.md R144 with R142: WRITE_SCRATCHPAD when the first reset finds presence. No register changes. -/
def Obligations.WriteScratchpadSendsThreeBytes : Prop :=
  ∀ s : State, s.line.bus.reset.1 = true →
    ∃ (l : Line) (q : Bool),
      exec .writeScratchpad s = .next { s with
        flags := s.flags.result true true false false, err := .none, seq := .idle, line := l } ∧
      l.owOe = false ∧
      l.trace = s.line.trace ++ [.reset true] ++ writeFrameTrace s.params s.addr s.wth s.wtl s.wcfg q

/-- 45_scratchpad.md R145 with R147: IS_CONNECTED when the first reset finds presence. -/
def Obligations.IsConnectedChecksWhatWasRead : Prop :=
  ∀ s : State, s.line.bus.reset.1 = true →
    ∃ (P : Pad) (l : Line) (q good nonzero : Bool),
      exec .isConnected s = .next { s with
        flags := s.flags.result true (good && nonzero) good nonzero
        err := if good && nonzero then .none else .integrityFailure
        seq := .idle
        sp := P
        crc := crc8 [P[0], P[1], P[2], P[3], P[4], P[5], P[6], P[7]]
        line := l } ∧
      good = decide (crc8 [P[0], P[1], P[2], P[3], P[4], P[5], P[6], P[7]] = P[8]) ∧
      nonzero = decide (∃ k : Fin 9, P[k] ≠ 0x00) ∧
      l.owOe = false ∧
      l.trace = s.line.trace ++ [.reset true] ++ readFrameTrace s.params s.addr P q

/-- 45_scratchpad.md R146: SET_RESOLUTION when the first reset finds presence. The connectivity check fails: no write-back.
The pattern is already there: none either. Otherwise WTH, WTL and WCFG are loaded and a second frame is opened, whose presence
result reaches PRESENCE and decides whether it goes on; OK is 1 either way, and SP keeps the snapshot. -/
def Obligations.SetResolutionWritesBackOnChange : Prop :=
  ∀ s : State, s.line.bus.reset.1 = true →
    ∃ (P : Pad) (l : Line) (q good nonzero : Bool) (pat : Byte),
      good = decide (crc8 [P[0], P[1], P[2], P[3], P[4], P[5], P[6], P[7]] = P[8]) ∧
      nonzero = decide (∃ k : Fin 9, P[k] ≠ 0x00) ∧
      pat = (if s.data.toNat ≤ 9 then s.params.cfg9 else if s.data.toNat = 10 then s.params.cfg10
        else if s.data.toNat = 11 then s.params.cfg11 else s.params.cfg12) ∧
      l.owOe = false ∧
      ((good && nonzero) = false →
        exec .setResolution s = .next { s with
          flags := s.flags.result true false good nonzero
          err := .integrityFailure
          seq := .idle
          sp := P
          crc := crc8 [P[0], P[1], P[2], P[3], P[4], P[5], P[6], P[7]]
          line := l } ∧
        l.trace = s.line.trace ++ [.reset true] ++ readFrameTrace s.params s.addr P q) ∧
      ((good && nonzero) = true → P[4] = pat →
        exec .setResolution s = .next { s with
          flags := s.flags.result true true true true
          err := .none
          seq := .idle
          sp := P
          crc := P[8]
          line := l } ∧
        l.trace = s.line.trace ++ [.reset true] ++ readFrameTrace s.params s.addr P q) ∧
      ((good && nonzero) = true → P[4] ≠ pat →
        ∃ again last : Bool,
          exec .setResolution s = .next { s with
            flags := s.flags.result again true true true
            err := .none
            seq := .idle
            sp := P
            crc := P[8]
            wth := P[2]
            wtl := P[3]
            wcfg := pat
            line := l } ∧
          l.trace = s.line.trace ++ [.reset true] ++ readFrameTrace s.params s.addr P q ++ [.reset again] ++
            (if again then writeFrameTrace s.params s.addr P[2] P[3] pat last else []))

/-- 45_scratchpad.md R148: OK = 1 from IS_CONNECTED or SET_RESOLUTION means a valid scratchpad in SP and its CRC in CRC;
READ_SCRATCHPAD promises neither. -/
def Obligations.ConnectedMeansValidScratchpad : Prop :=
  (∀ (i : Instr) (s t : State), i ∈ [.isConnected, .setResolution] → exec i s = .next t → t.flags.ok = true →
    crc8 (t.sp.toList.take 8) = t.sp[8] ∧ (∃ k : Fin 9, t.sp[k] ≠ 0x00) ∧ t.crc = t.sp[8]) ∧
  (∃ s t : State, exec .readScratchpad s = .next t ∧ t.flags.ok = true ∧ crc8 (t.sp.toList.take 8) ≠ t.sp[8]) ∧
  (∃ s t : State, exec .readScratchpad s = .next t ∧ t.flags.ok = true ∧ ∀ k : Fin 9, t.sp[k] = 0x00)

/-- 45_scratchpad.md R143 (example) under the reference device model of 20_memory.md R47 (log entry 15): reading the only
device on the bus by its address gives its scratchpad. -/
def Obligations.ScratchpadOfTheOnlyDeviceIsRead : Prop :=
  ∀ (s : State) (d : Device), s.line.bus = .devices [d] → s.addr = d.rom →
    s.params.cmdMatchRom ≠ s.params.cmdSearchRom → s.params.cmdMatchRom ≠ s.params.cmdSearchAlarm →
    ∃ l : Line,
      exec .readScratchpad s = .next { s with
        flags := s.flags.result true true false false, err := .none, seq := .idle, sp := d.sp, line := l } ∧
      l.bus = .devices [{ d with mode := .romCmd [] }] ∧ l.trace.length = s.line.trace.length + 154

/-- 45_scratchpad.md R144, 95_test_vectors.md T54, under the reference device model (log entry 15): writing the only device on
the bus by its address puts WTH, WTL and WCFG into its bytes 2 to 4 and the CRC into byte 8. -/
def Obligations.ScratchpadOfTheOnlyDeviceIsWritten : Prop :=
  ∀ (s : State) (d : Device) (P : Pad), s.line.bus = .devices [d] → s.addr = d.rom →
    s.params.cmdMatchRom ≠ s.params.cmdSearchRom → s.params.cmdMatchRom ≠ s.params.cmdSearchAlarm →
    s.params.cmdWriteScratchpad ≠ s.params.cmdReadScratchpad →
    P = #v[d.sp[0], d.sp[1], s.wth, s.wtl, s.wcfg, d.sp[5], d.sp[6], d.sp[7],
      crc8 [d.sp[0], d.sp[1], s.wth, s.wtl, s.wcfg, d.sp[5], d.sp[6], d.sp[7]]] →
    ∃ l : Line,
      exec .writeScratchpad s = .next { s with
        flags := s.flags.result true true false false, err := .none, seq := .idle, line := l } ∧
      l.bus = .devices [{ d with sp := P, mode := .romCmd [] }] ∧
      l.trace.length = s.line.trace.length + 106

/-! ## Time -/

/-- 70_reset_and_hazards.md R200, with the nominal durations of 00_scope.md R7: the line time of every command and the number
of exchanges it made, for each way it can end. An aborted search read its last pair at position `n`, the only one with
`11 + 3 (n - 1)` exchanges. SET_RESOLUTION writes back when SP[4] is not the requested pattern, and its second reset then finds
presence or (155 exchanges) does not. The line time is the model's sum of DELAYs: log entry 14. -/
def Obligations.NominalCommandTimes : Prop :=
  ∀ (i : Instr) (s t : State), s.params.dur = Durations.nominal → exec i s = .next t →
    match i with
    | .writeBit | .readBit => s.line.Takes t.line 1 70
    | .writeByte => s.line.Takes t.line 8 660
    | .readByte => s.line.Takes t.line 8 680
    | .busReset => s.line.Takes t.line 1 960
    | .crcInit | .crcByte | .checkAddr | .checkSp | .searchReset => s.line.Takes t.line 0 0
    | .searchRom | .searchAlarm =>
      (s.ldf = true → s.line.Takes t.line 0 0) ∧
      (t.flags.ok = true → s.line.Takes t.line 201 15060) ∧
      (t.err = .busAbsent → s.line.Takes t.line 1 960) ∧
      (t.err = .searchAborted →
        ∃ n, 1 ≤ n ∧ n ≤ 64 ∧ s.line.Takes t.line (11 + 3 * (n - 1)) (1760 + 210 * (n - 1)))
    | .readScratchpad | .isConnected =>
      if t.err = .busAbsent then s.line.Takes t.line 1 960 else s.line.Takes t.line 154 14640
    | .writeScratchpad => if t.err = .busAbsent then s.line.Takes t.line 1 960 else s.line.Takes t.line 106 10500
    | .setResolution =>
      (t.err = .busAbsent → s.line.Takes t.line 1 960) ∧
      (t.err = .integrityFailure → s.line.Takes t.line 154 14640) ∧
      (t.err = .none →
        if t.sp[4] = s.requestedPattern then s.line.Takes t.line 154 14640
        else if t.flags.presence then s.line.Takes t.line 260 25140
        else s.line.Takes t.line 155 15600)

/-! ## Host sequences -/

/-- 30_encoding.md R78: SET_RESOLUTION reads DATA as an unsigned number, clamps it to 9 to 12, and the clamped number selects
the pattern. -/
def Obligations.ResolutionSelectsThePattern : Prop :=
  (∀ r : Byte, clampResolution r = if r.toNat < 9 then 9 else if 12 < r.toNat then 12 else r) ∧
  (∀ s : State, s.requestedPattern =
    if clampResolution s.data = 9 then s.params.cfg9
    else if clampResolution s.data = 10 then s.params.cfg10
    else if clampResolution s.data = 11 then s.params.cfg11
    else s.params.cfg12) ∧
  (∀ r : Byte, 9 ≤ (clampResolution r).toNat ∧ (clampResolution r).toNat ≤ 12)

/-- 46_host_sequences.md R155, under the reference device model (log entry 15): on an empty bus no device is found; on a bus
with one device exactly that one is, whether the loop ends by the count or by the report that there are no more. -/
def Obligations.EnumerateSmallBuses : Prop :=
  (∀ (s : State) (max : Nat), s.line.bus = .devices [] → (enumerate .searchRom max s).1 = []) ∧
  (∀ (s : State) (d : Device) (max : Nat), s.line.bus = .devices [d] →
    (enumerate .searchRom (max + 1) s).1 = [d.rom])

/-- 44_search.md R135, 46_host_sequences.md R155, under the reference device model of 20_memory.md R47 (log entry 15): an
enumeration with room for every device returns the addresses on the bus, all of them and no other, in lexicographic order,
hence each once (devices of the same address "behave as one", R128). -/
def Obligations.EnumerationFindsEveryDevice : Prop :=
  ∀ (s : State) (ds : List Device) (max : Nat), s.line.bus = .devices ds → ds.length ≤ max →
    (enumerate .searchRom max s).1.Pairwise addressBefore ∧
      ∀ A : Address, A ∈ (enumerate .searchRom max s).1 ↔ ∃ d ∈ ds, d.rom = A

/-- 46_host_sequences.md R156, R157: polling "stops early the instant completion is observed": with a bus that answers the
reset with presence and poll number `n + 1` with the first 1, and no clock reading before it at the timeout, the request ends
completed after exactly `n + 1` read slots. The clock readings are an input: log entry 17. -/
def Obligations.ConversionPollStopsAtTheFirstOne : Prop :=
  ∀ (s : State) (res n d : Nat) (ms : List Nat) (rest : List Bool),
    s.line.bus = .free (true :: (List.replicate n false ++ true :: rest)) d →
    n < ms.length → (∀ m ∈ ms.take n, m < conversionTimeout res) →
    ∃ t : State, requestConversion res ms s = (.completed, t) ∧
      t.line.trace = s.line.trace ++ [.reset true] ++ txByte s.params.cmdSkipRom ++ txByte s.params.cmdConvertT ++
        List.replicate n (.read false) ++ [.read true] ∧
      t.line.bus = .free rest d

/-- 46_host_sequences.md R156: the timeout of a resolution, and that the wait ends timed out at the first clock reading that is
at or past it, when every poll up to then reads 0: at least one READ_BIT is issued, and none after. The clock readings are an
input: log entry 17. -/
def Obligations.ConversionPollTimesOut : Prop :=
  (conversionTimeout 9 = 94 ∧ conversionTimeout 10 = 188 ∧ conversionTimeout 11 = 375 ∧ conversionTimeout 12 = 750) ∧
  ∀ (s : State) (res late d : Nat) (early more : List Nat) (rest : List Bool),
    s.line.bus = .free (true :: (List.replicate (early.length + 1) false ++ rest)) d →
    (∀ m ∈ early, m < conversionTimeout res) → conversionTimeout res ≤ late →
    ∃ t : State, requestConversion res (early ++ late :: more) s = (.timedOut, t) ∧
      t.line.trace = s.line.trace ++ [.reset true] ++ txByte s.params.cmdSkipRom ++ txByte s.params.cmdConvertT ++
        List.replicate (early.length + 1) (.read false) ∧
      t.line.bus = .free rest d

/-- 42_reset_presence.md R112, 46_host_sequences.md R156: without presence a conversion request is one bus reset: nothing is
sent, nothing is polled, and the clock is not read. -/
def Obligations.ConversionWithoutDeviceEnds : Prop :=
  ∀ (s : State) (res : Nat) (ms : List Nat), s.line.bus.reset.1 = false →
    ∃ t : State, requestConversion res ms s = (.noDevice, t) ∧ t.line.trace = s.line.trace ++ [.reset false] ∧
      t.err = .busAbsent ∧ t.flags.ok = false ∧ t.data = s.data

/-- 46_host_sequences.md R158, R159: the raw value is `{SP[1][4:0], SP[0][7:0], 0b000}` read as signed, disconnected at or
below -7040; Celsius is a multiple of 1/16. -/
def Obligations.RawTemperatureLayout : Prop :=
  ∀ lsb msb : Byte,
    raw16 lsb msb = (msb.extractLsb' 0 5) ++ lsb ++ (0 : BitVec 3) ∧
    (rawTemperature lsb msb = none ↔ (raw16 lsb msb).toInt ≤ -7040) ∧
    (∀ raw, rawTemperature lsb msb = some raw →
      raw = (raw16 lsb msb).toInt ∧ -7040 < raw ∧ ∃ k : Int, raw = 8 * k ∧ celsius raw = k / 16)

/-- 46_host_sequences.md R158, R159, R160: the temperature accessors, for every pair of sentinels that R160 admits ("distinct,
out-of-range values for Celsius and Fahrenheit paths"; read as outside their unit's readings: log entry 23). On either failure
path each unit answers its own sentinel; otherwise it answers the reading, which is no sentinel. Temperatures are exact: log
entry 17. -/
def Obligations.SentinelsTellFailureFromReadings : Prop :=
  ∀ (d : Sentinels) (s t : State) (raw : Int), SentinelsWf d → t = issue .isConnected s →
    raw = (raw16 t.sp[0] t.sp[1]).toInt →
    d.disconnectedC ≠ d.disconnectedF ∧
    ((t.flags.ok = false ∨ raw ≤ -7040) →
      readCelsius d s = (d.disconnectedC, t) ∧ readFahrenheit d s = (d.disconnectedF, t)) ∧
    (t.flags.ok = true → -7040 < raw →
      readCelsius d s = ((raw : ℚ) / 128, t) ∧ readFahrenheit d s = ((raw : ℚ) * (9 / 640) + 32, t) ∧
        (raw : ℚ) / 128 ≠ d.disconnectedC ∧ (raw : ℚ) * (9 / 640) + 32 ≠ d.disconnectedF)

/-- 46_host_sequences.md R161: the parser gives back the address whose 16 lower-case digits it is given, and rejects every
string of another length. -/
def Obligations.ParseAddressReadsItsDigits : Prop :=
  (∀ A : Address, parseAddress (addressDigits A) = some A) ∧
  (∀ digits : List Char, digits.length ≠ 16 → parseAddress digits = none)
end

