-- ==== Sys2Proof/Laws/State.lean ====
section
/-! SUPPORT. One lemma per field per named update of State: what each update leaves and what it sets. -/

namespace Sys2Proof.Machine

variable (s : State)

/-! ### State.launch -/

@[simp] theorem State.launch_cmd : s.launch.cmd = s.cmd := rfl
@[simp] theorem State.launch_flags : s.launch.flags = s.flags.launched := rfl
@[simp] theorem State.launch_err : s.launch.err = .none := rfl
@[simp] theorem State.launch_data : s.launch.data = s.data := rfl
@[simp] theorem State.launch_crc : s.launch.crc = s.crc := rfl
@[simp] theorem State.launch_ld : s.launch.ld = s.ld := rfl
@[simp] theorem State.launch_lfd : s.launch.lfd = s.lfd := rfl
@[simp] theorem State.launch_ldf : s.launch.ldf = s.ldf := rfl
@[simp] theorem State.launch_romNo : s.launch.romNo = s.romNo := rfl
@[simp] theorem State.launch_addr : s.launch.addr = s.addr := rfl
@[simp] theorem State.launch_sp : s.launch.sp = s.sp := rfl
@[simp] theorem State.launch_wth : s.launch.wth = s.wth := rfl
@[simp] theorem State.launch_wtl : s.launch.wtl = s.wtl := rfl
@[simp] theorem State.launch_wcfg : s.launch.wcfg = s.wcfg := rfl
@[simp] theorem State.launch_seq : s.launch.seq = s.seq := rfl
@[simp] theorem State.launch_rstIn : s.launch.rstIn = s.rstIn := rfl
@[simp] theorem State.launch_line : s.launch.line = s.line := rfl
@[simp] theorem State.launch_rdata : s.launch.rdata = s.rdata := rfl
@[simp] theorem State.launch_hostQ : s.launch.hostQ = s.hostQ := rfl
@[simp] theorem State.launch_hostWait : s.launch.hostWait = s.hostWait := rfl
@[simp] theorem State.launch_freeReads : s.launch.freeReads = s.freeReads := rfl
@[simp] theorem State.launch_params : s.launch.params = s.params := rfl

/-! ### State.done -/

@[simp] theorem State.done_cmd (ok : Bool) : (s.done ok).cmd = s.cmd := rfl
@[simp] theorem State.done_flags (ok : Bool) : (s.done ok).flags = { s.flags with ok := ok } := rfl
@[simp] theorem State.done_err (ok : Bool) : (s.done ok).err = s.err := rfl
@[simp] theorem State.done_data (ok : Bool) : (s.done ok).data = s.data := rfl
@[simp] theorem State.done_crc (ok : Bool) : (s.done ok).crc = s.crc := rfl
@[simp] theorem State.done_ld (ok : Bool) : (s.done ok).ld = s.ld := rfl
@[simp] theorem State.done_lfd (ok : Bool) : (s.done ok).lfd = s.lfd := rfl
@[simp] theorem State.done_ldf (ok : Bool) : (s.done ok).ldf = s.ldf := rfl
@[simp] theorem State.done_romNo (ok : Bool) : (s.done ok).romNo = s.romNo := rfl
@[simp] theorem State.done_addr (ok : Bool) : (s.done ok).addr = s.addr := rfl
@[simp] theorem State.done_sp (ok : Bool) : (s.done ok).sp = s.sp := rfl
@[simp] theorem State.done_wth (ok : Bool) : (s.done ok).wth = s.wth := rfl
@[simp] theorem State.done_wtl (ok : Bool) : (s.done ok).wtl = s.wtl := rfl
@[simp] theorem State.done_wcfg (ok : Bool) : (s.done ok).wcfg = s.wcfg := rfl
@[simp] theorem State.done_seq (ok : Bool) : (s.done ok).seq = .idle := rfl
@[simp] theorem State.done_rstIn (ok : Bool) : (s.done ok).rstIn = s.rstIn := rfl
@[simp] theorem State.done_line (ok : Bool) : (s.done ok).line = s.line := rfl
@[simp] theorem State.done_rdata (ok : Bool) : (s.done ok).rdata = s.rdata := rfl
@[simp] theorem State.done_hostQ (ok : Bool) : (s.done ok).hostQ = s.hostQ := rfl
@[simp] theorem State.done_hostWait (ok : Bool) : (s.done ok).hostWait = s.hostWait := rfl
@[simp] theorem State.done_freeReads (ok : Bool) : (s.done ok).freeReads = s.freeReads := rfl
@[simp] theorem State.done_params (ok : Bool) : (s.done ok).params = s.params := rfl

/-! ### State.fail -/

@[simp] theorem State.fail_cmd (e : ErrCode) : (s.fail e).cmd = s.cmd := rfl
@[simp] theorem State.fail_flags (e : ErrCode) : (s.fail e).flags = { s.flags with ok := false } := rfl
@[simp] theorem State.fail_err (e : ErrCode) : (s.fail e).err = e := rfl
@[simp] theorem State.fail_data (e : ErrCode) : (s.fail e).data = s.data := rfl
@[simp] theorem State.fail_crc (e : ErrCode) : (s.fail e).crc = s.crc := rfl
@[simp] theorem State.fail_ld (e : ErrCode) : (s.fail e).ld = s.ld := rfl
@[simp] theorem State.fail_lfd (e : ErrCode) : (s.fail e).lfd = s.lfd := rfl
@[simp] theorem State.fail_ldf (e : ErrCode) : (s.fail e).ldf = s.ldf := rfl
@[simp] theorem State.fail_romNo (e : ErrCode) : (s.fail e).romNo = s.romNo := rfl
@[simp] theorem State.fail_addr (e : ErrCode) : (s.fail e).addr = s.addr := rfl
@[simp] theorem State.fail_sp (e : ErrCode) : (s.fail e).sp = s.sp := rfl
@[simp] theorem State.fail_wth (e : ErrCode) : (s.fail e).wth = s.wth := rfl
@[simp] theorem State.fail_wtl (e : ErrCode) : (s.fail e).wtl = s.wtl := rfl
@[simp] theorem State.fail_wcfg (e : ErrCode) : (s.fail e).wcfg = s.wcfg := rfl
@[simp] theorem State.fail_seq (e : ErrCode) : (s.fail e).seq = .idle := rfl
@[simp] theorem State.fail_rstIn (e : ErrCode) : (s.fail e).rstIn = s.rstIn := rfl
@[simp] theorem State.fail_line (e : ErrCode) : (s.fail e).line = s.line := rfl
@[simp] theorem State.fail_rdata (e : ErrCode) : (s.fail e).rdata = s.rdata := rfl
@[simp] theorem State.fail_hostQ (e : ErrCode) : (s.fail e).hostQ = s.hostQ := rfl
@[simp] theorem State.fail_hostWait (e : ErrCode) : (s.fail e).hostWait = s.hostWait := rfl
@[simp] theorem State.fail_freeReads (e : ErrCode) : (s.fail e).freeReads = s.freeReads := rfl
@[simp] theorem State.fail_params (e : ErrCode) : (s.fail e).params = s.params := rfl

/-! ### State.misuse -/

@[simp] theorem State.misuse_cmd : s.misuse.cmd = s.cmd := rfl
@[simp] theorem State.misuse_flags : s.misuse.flags = { s.flags with fault := true } := rfl
@[simp] theorem State.misuse_err : s.misuse.err = s.err := rfl
@[simp] theorem State.misuse_data : s.misuse.data = s.data := rfl
@[simp] theorem State.misuse_crc : s.misuse.crc = s.crc := rfl
@[simp] theorem State.misuse_ld : s.misuse.ld = s.ld := rfl
@[simp] theorem State.misuse_lfd : s.misuse.lfd = s.lfd := rfl
@[simp] theorem State.misuse_ldf : s.misuse.ldf = s.ldf := rfl
@[simp] theorem State.misuse_romNo : s.misuse.romNo = s.romNo := rfl
@[simp] theorem State.misuse_addr : s.misuse.addr = s.addr := rfl
@[simp] theorem State.misuse_sp : s.misuse.sp = s.sp := rfl
@[simp] theorem State.misuse_wth : s.misuse.wth = s.wth := rfl
@[simp] theorem State.misuse_wtl : s.misuse.wtl = s.wtl := rfl
@[simp] theorem State.misuse_wcfg : s.misuse.wcfg = s.wcfg := rfl
@[simp] theorem State.misuse_seq : s.misuse.seq = s.seq := rfl
@[simp] theorem State.misuse_rstIn : s.misuse.rstIn = s.rstIn := rfl
@[simp] theorem State.misuse_line : s.misuse.line = s.line := rfl
@[simp] theorem State.misuse_rdata : s.misuse.rdata = s.rdata := rfl
@[simp] theorem State.misuse_hostQ : s.misuse.hostQ = s.hostQ := rfl
@[simp] theorem State.misuse_hostWait : s.misuse.hostWait = s.hostWait := rfl
@[simp] theorem State.misuse_freeReads : s.misuse.freeReads = s.freeReads := rfl
@[simp] theorem State.misuse_params : s.misuse.params = s.params := rfl

/-! ### State.onLine -/

@[simp] theorem State.onLine_cmd (f : Line → Line) : (s.onLine f).cmd = s.cmd := rfl
@[simp] theorem State.onLine_flags (f : Line → Line) : (s.onLine f).flags = s.flags := rfl
@[simp] theorem State.onLine_err (f : Line → Line) : (s.onLine f).err = s.err := rfl
@[simp] theorem State.onLine_data (f : Line → Line) : (s.onLine f).data = s.data := rfl
@[simp] theorem State.onLine_crc (f : Line → Line) : (s.onLine f).crc = s.crc := rfl
@[simp] theorem State.onLine_ld (f : Line → Line) : (s.onLine f).ld = s.ld := rfl
@[simp] theorem State.onLine_lfd (f : Line → Line) : (s.onLine f).lfd = s.lfd := rfl
@[simp] theorem State.onLine_ldf (f : Line → Line) : (s.onLine f).ldf = s.ldf := rfl
@[simp] theorem State.onLine_romNo (f : Line → Line) : (s.onLine f).romNo = s.romNo := rfl
@[simp] theorem State.onLine_addr (f : Line → Line) : (s.onLine f).addr = s.addr := rfl
@[simp] theorem State.onLine_sp (f : Line → Line) : (s.onLine f).sp = s.sp := rfl
@[simp] theorem State.onLine_wth (f : Line → Line) : (s.onLine f).wth = s.wth := rfl
@[simp] theorem State.onLine_wtl (f : Line → Line) : (s.onLine f).wtl = s.wtl := rfl
@[simp] theorem State.onLine_wcfg (f : Line → Line) : (s.onLine f).wcfg = s.wcfg := rfl
@[simp] theorem State.onLine_seq (f : Line → Line) : (s.onLine f).seq = s.seq := rfl
@[simp] theorem State.onLine_rstIn (f : Line → Line) : (s.onLine f).rstIn = s.rstIn := rfl
@[simp] theorem State.onLine_line (f : Line → Line) : (s.onLine f).line = f s.line := rfl
@[simp] theorem State.onLine_rdata (f : Line → Line) : (s.onLine f).rdata = s.rdata := rfl
@[simp] theorem State.onLine_hostQ (f : Line → Line) : (s.onLine f).hostQ = s.hostQ := rfl
@[simp] theorem State.onLine_hostWait (f : Line → Line) : (s.onLine f).hostWait = s.hostWait := rfl
@[simp] theorem State.onLine_freeReads (f : Line → Line) : (s.onLine f).freeReads = s.freeReads := rfl
@[simp] theorem State.onLine_params (f : Line → Line) : (s.onLine f).params = s.params := rfl

/-! ### State.setPresence -/

@[simp] theorem State.setPresence_cmd (p : Bool) : (s.setPresence p).cmd = s.cmd := rfl
@[simp] theorem State.setPresence_flags (p : Bool) : (s.setPresence p).flags = { s.flags with presence := p } := rfl
@[simp] theorem State.setPresence_err (p : Bool) : (s.setPresence p).err = s.err := rfl
@[simp] theorem State.setPresence_data (p : Bool) : (s.setPresence p).data = s.data := rfl
@[simp] theorem State.setPresence_crc (p : Bool) : (s.setPresence p).crc = s.crc := rfl
@[simp] theorem State.setPresence_ld (p : Bool) : (s.setPresence p).ld = s.ld := rfl
@[simp] theorem State.setPresence_lfd (p : Bool) : (s.setPresence p).lfd = s.lfd := rfl
@[simp] theorem State.setPresence_ldf (p : Bool) : (s.setPresence p).ldf = s.ldf := rfl
@[simp] theorem State.setPresence_romNo (p : Bool) : (s.setPresence p).romNo = s.romNo := rfl
@[simp] theorem State.setPresence_addr (p : Bool) : (s.setPresence p).addr = s.addr := rfl
@[simp] theorem State.setPresence_sp (p : Bool) : (s.setPresence p).sp = s.sp := rfl
@[simp] theorem State.setPresence_wth (p : Bool) : (s.setPresence p).wth = s.wth := rfl
@[simp] theorem State.setPresence_wtl (p : Bool) : (s.setPresence p).wtl = s.wtl := rfl
@[simp] theorem State.setPresence_wcfg (p : Bool) : (s.setPresence p).wcfg = s.wcfg := rfl
@[simp] theorem State.setPresence_seq (p : Bool) : (s.setPresence p).seq = s.seq := rfl
@[simp] theorem State.setPresence_rstIn (p : Bool) : (s.setPresence p).rstIn = s.rstIn := rfl
@[simp] theorem State.setPresence_line (p : Bool) : (s.setPresence p).line = s.line := rfl
@[simp] theorem State.setPresence_rdata (p : Bool) : (s.setPresence p).rdata = s.rdata := rfl
@[simp] theorem State.setPresence_hostQ (p : Bool) : (s.setPresence p).hostQ = s.hostQ := rfl
@[simp] theorem State.setPresence_hostWait (p : Bool) : (s.setPresence p).hostWait = s.hostWait := rfl
@[simp] theorem State.setPresence_freeReads (p : Bool) : (s.setPresence p).freeReads = s.freeReads := rfl
@[simp] theorem State.setPresence_params (p : Bool) : (s.setPresence p).params = s.params := rfl

/-! ### State.checkPad -/

@[simp] theorem State.checkPad_cmd : s.checkPad.cmd = s.cmd := rfl
@[simp] theorem State.checkPad_flags : s.checkPad.flags = { s.flags with crcOk := decide (padCrc s.sp = s.sp.getD 8 0), nonzero := padNonzero s.sp } := rfl
@[simp] theorem State.checkPad_err : s.checkPad.err = s.err := rfl
@[simp] theorem State.checkPad_data : s.checkPad.data = s.data := rfl
@[simp] theorem State.checkPad_crc : s.checkPad.crc = padCrc s.sp := rfl
@[simp] theorem State.checkPad_ld : s.checkPad.ld = s.ld := rfl
@[simp] theorem State.checkPad_lfd : s.checkPad.lfd = s.lfd := rfl
@[simp] theorem State.checkPad_ldf : s.checkPad.ldf = s.ldf := rfl
@[simp] theorem State.checkPad_romNo : s.checkPad.romNo = s.romNo := rfl
@[simp] theorem State.checkPad_addr : s.checkPad.addr = s.addr := rfl
@[simp] theorem State.checkPad_sp : s.checkPad.sp = s.sp := rfl
@[simp] theorem State.checkPad_wth : s.checkPad.wth = s.wth := rfl
@[simp] theorem State.checkPad_wtl : s.checkPad.wtl = s.wtl := rfl
@[simp] theorem State.checkPad_wcfg : s.checkPad.wcfg = s.wcfg := rfl
@[simp] theorem State.checkPad_seq : s.checkPad.seq = s.seq := rfl
@[simp] theorem State.checkPad_rstIn : s.checkPad.rstIn = s.rstIn := rfl
@[simp] theorem State.checkPad_line : s.checkPad.line = s.line := rfl
@[simp] theorem State.checkPad_rdata : s.checkPad.rdata = s.rdata := rfl
@[simp] theorem State.checkPad_hostQ : s.checkPad.hostQ = s.hostQ := rfl
@[simp] theorem State.checkPad_hostWait : s.checkPad.hostWait = s.hostWait := rfl
@[simp] theorem State.checkPad_freeReads : s.checkPad.freeReads = s.freeReads := rfl
@[simp] theorem State.checkPad_params : s.checkPad.params = s.params := rfl

/-! ### State.checkAddress -/

@[simp] theorem State.checkAddress_cmd : s.checkAddress.cmd = s.cmd := rfl
@[simp] theorem State.checkAddress_flags : s.checkAddress.flags = { s.flags with crcOk := decide (addressCrc s.addr = s.addr.getD 7 0) } := rfl
@[simp] theorem State.checkAddress_err : s.checkAddress.err = s.err := rfl
@[simp] theorem State.checkAddress_data : s.checkAddress.data = s.data := rfl
@[simp] theorem State.checkAddress_crc : s.checkAddress.crc = addressCrc s.addr := rfl
@[simp] theorem State.checkAddress_ld : s.checkAddress.ld = s.ld := rfl
@[simp] theorem State.checkAddress_lfd : s.checkAddress.lfd = s.lfd := rfl
@[simp] theorem State.checkAddress_ldf : s.checkAddress.ldf = s.ldf := rfl
@[simp] theorem State.checkAddress_romNo : s.checkAddress.romNo = s.romNo := rfl
@[simp] theorem State.checkAddress_addr : s.checkAddress.addr = s.addr := rfl
@[simp] theorem State.checkAddress_sp : s.checkAddress.sp = s.sp := rfl
@[simp] theorem State.checkAddress_wth : s.checkAddress.wth = s.wth := rfl
@[simp] theorem State.checkAddress_wtl : s.checkAddress.wtl = s.wtl := rfl
@[simp] theorem State.checkAddress_wcfg : s.checkAddress.wcfg = s.wcfg := rfl
@[simp] theorem State.checkAddress_seq : s.checkAddress.seq = s.seq := rfl
@[simp] theorem State.checkAddress_rstIn : s.checkAddress.rstIn = s.rstIn := rfl
@[simp] theorem State.checkAddress_line : s.checkAddress.line = s.line := rfl
@[simp] theorem State.checkAddress_rdata : s.checkAddress.rdata = s.rdata := rfl
@[simp] theorem State.checkAddress_hostQ : s.checkAddress.hostQ = s.hostQ := rfl
@[simp] theorem State.checkAddress_hostWait : s.checkAddress.hostWait = s.hostWait := rfl
@[simp] theorem State.checkAddress_freeReads : s.checkAddress.freeReads = s.freeReads := rfl
@[simp] theorem State.checkAddress_params : s.checkAddress.params = s.params := rfl

/-! ### State.loadWriteBack -/

@[simp] theorem State.loadWriteBack_cmd (pat : Byte) : (s.loadWriteBack pat).cmd = s.cmd := rfl
@[simp] theorem State.loadWriteBack_flags (pat : Byte) : (s.loadWriteBack pat).flags = s.flags := rfl
@[simp] theorem State.loadWriteBack_err (pat : Byte) : (s.loadWriteBack pat).err = s.err := rfl
@[simp] theorem State.loadWriteBack_data (pat : Byte) : (s.loadWriteBack pat).data = s.data := rfl
@[simp] theorem State.loadWriteBack_crc (pat : Byte) : (s.loadWriteBack pat).crc = s.crc := rfl
@[simp] theorem State.loadWriteBack_ld (pat : Byte) : (s.loadWriteBack pat).ld = s.ld := rfl
@[simp] theorem State.loadWriteBack_lfd (pat : Byte) : (s.loadWriteBack pat).lfd = s.lfd := rfl
@[simp] theorem State.loadWriteBack_ldf (pat : Byte) : (s.loadWriteBack pat).ldf = s.ldf := rfl
@[simp] theorem State.loadWriteBack_romNo (pat : Byte) : (s.loadWriteBack pat).romNo = s.romNo := rfl
@[simp] theorem State.loadWriteBack_addr (pat : Byte) : (s.loadWriteBack pat).addr = s.addr := rfl
@[simp] theorem State.loadWriteBack_sp (pat : Byte) : (s.loadWriteBack pat).sp = s.sp := rfl
@[simp] theorem State.loadWriteBack_wth (pat : Byte) : (s.loadWriteBack pat).wth = s.sp.getD 2 0 := rfl
@[simp] theorem State.loadWriteBack_wtl (pat : Byte) : (s.loadWriteBack pat).wtl = s.sp.getD 3 0 := rfl
@[simp] theorem State.loadWriteBack_wcfg (pat : Byte) : (s.loadWriteBack pat).wcfg = pat := rfl
@[simp] theorem State.loadWriteBack_seq (pat : Byte) : (s.loadWriteBack pat).seq = s.seq := rfl
@[simp] theorem State.loadWriteBack_rstIn (pat : Byte) : (s.loadWriteBack pat).rstIn = s.rstIn := rfl
@[simp] theorem State.loadWriteBack_line (pat : Byte) : (s.loadWriteBack pat).line = s.line := rfl
@[simp] theorem State.loadWriteBack_rdata (pat : Byte) : (s.loadWriteBack pat).rdata = s.rdata := rfl
@[simp] theorem State.loadWriteBack_hostQ (pat : Byte) : (s.loadWriteBack pat).hostQ = s.hostQ := rfl
@[simp] theorem State.loadWriteBack_hostWait (pat : Byte) : (s.loadWriteBack pat).hostWait = s.hostWait := rfl
@[simp] theorem State.loadWriteBack_freeReads (pat : Byte) : (s.loadWriteBack pat).freeReads = s.freeReads := rfl
@[simp] theorem State.loadWriteBack_params (pat : Byte) : (s.loadWriteBack pat).params = s.params := rfl

/-! ### State.clearSearch -/

@[simp] theorem State.clearSearch_cmd : s.clearSearch.cmd = s.cmd := rfl
@[simp] theorem State.clearSearch_flags : s.clearSearch.flags = s.flags := rfl
@[simp] theorem State.clearSearch_err : s.clearSearch.err = s.err := rfl
@[simp] theorem State.clearSearch_data : s.clearSearch.data = s.data := rfl
@[simp] theorem State.clearSearch_crc : s.clearSearch.crc = s.crc := rfl
@[simp] theorem State.clearSearch_ld : s.clearSearch.ld = 0 := rfl
@[simp] theorem State.clearSearch_lfd : s.clearSearch.lfd = 0 := rfl
@[simp] theorem State.clearSearch_ldf : s.clearSearch.ldf = false := rfl
@[simp] theorem State.clearSearch_romNo : s.clearSearch.romNo = s.romNo := rfl
@[simp] theorem State.clearSearch_addr : s.clearSearch.addr = s.addr := rfl
@[simp] theorem State.clearSearch_sp : s.clearSearch.sp = s.sp := rfl
@[simp] theorem State.clearSearch_wth : s.clearSearch.wth = s.wth := rfl
@[simp] theorem State.clearSearch_wtl : s.clearSearch.wtl = s.wtl := rfl
@[simp] theorem State.clearSearch_wcfg : s.clearSearch.wcfg = s.wcfg := rfl
@[simp] theorem State.clearSearch_seq : s.clearSearch.seq = s.seq := rfl
@[simp] theorem State.clearSearch_rstIn : s.clearSearch.rstIn = s.rstIn := rfl
@[simp] theorem State.clearSearch_line : s.clearSearch.line = s.line := rfl
@[simp] theorem State.clearSearch_rdata : s.clearSearch.rdata = s.rdata := rfl
@[simp] theorem State.clearSearch_hostQ : s.clearSearch.hostQ = s.hostQ := rfl
@[simp] theorem State.clearSearch_hostWait : s.clearSearch.hostWait = s.hostWait := rfl
@[simp] theorem State.clearSearch_freeReads : s.clearSearch.freeReads = s.freeReads := rfl
@[simp] theorem State.clearSearch_params : s.clearSearch.params = s.params := rfl

/-! ### State.storeDirection -/

@[simp] theorem State.storeDirection_cmd (n : Nat) (a b : Bool) : (s.storeDirection n a b).cmd = s.cmd := rfl
@[simp] theorem State.storeDirection_flags (n : Nat) (a b : Bool) : (s.storeDirection n a b).flags = s.flags := rfl
@[simp] theorem State.storeDirection_err (n : Nat) (a b : Bool) : (s.storeDirection n a b).err = s.err := rfl
@[simp] theorem State.storeDirection_data (n : Nat) (a b : Bool) : (s.storeDirection n a b).data = s.data := rfl
@[simp] theorem State.storeDirection_crc (n : Nat) (a b : Bool) : (s.storeDirection n a b).crc = s.crc := rfl
@[simp] theorem State.storeDirection_ld (n : Nat) (a b : Bool) : (s.storeDirection n a b).ld = s.ld := rfl
@[simp] theorem State.storeDirection_lfd (n : Nat) (a b : Bool) : (s.storeDirection n a b).lfd = if s.zeroTaken n a b && decide (n < 9) then BitVec.ofNat 4 n else s.lfd := rfl
@[simp] theorem State.storeDirection_ldf (n : Nat) (a b : Bool) : (s.storeDirection n a b).ldf = s.ldf := rfl
@[simp] theorem State.storeDirection_romNo (n : Nat) (a b : Bool) : (s.storeDirection n a b).romNo = setAbit s.romNo n (s.direction n a b) := rfl
@[simp] theorem State.storeDirection_addr (n : Nat) (a b : Bool) : (s.storeDirection n a b).addr = s.addr := rfl
@[simp] theorem State.storeDirection_sp (n : Nat) (a b : Bool) : (s.storeDirection n a b).sp = s.sp := rfl
@[simp] theorem State.storeDirection_wth (n : Nat) (a b : Bool) : (s.storeDirection n a b).wth = s.wth := rfl
@[simp] theorem State.storeDirection_wtl (n : Nat) (a b : Bool) : (s.storeDirection n a b).wtl = s.wtl := rfl
@[simp] theorem State.storeDirection_wcfg (n : Nat) (a b : Bool) : (s.storeDirection n a b).wcfg = s.wcfg := rfl
@[simp] theorem State.storeDirection_seq (n : Nat) (a b : Bool) : (s.storeDirection n a b).seq = s.seq := rfl
@[simp] theorem State.storeDirection_line (n : Nat) (a b : Bool) : (s.storeDirection n a b).line = s.line := rfl
@[simp] theorem State.storeDirection_rdata (n : Nat) (a b : Bool) : (s.storeDirection n a b).rdata = s.rdata := rfl
@[simp] theorem State.storeDirection_hostQ (n : Nat) (a b : Bool) : (s.storeDirection n a b).hostQ = s.hostQ := rfl
@[simp] theorem State.storeDirection_hostWait (n : Nat) (a b : Bool) : (s.storeDirection n a b).hostWait = s.hostWait := rfl
@[simp] theorem State.storeDirection_freeReads (n : Nat) (a b : Bool) : (s.storeDirection n a b).freeReads = s.freeReads := rfl
@[simp] theorem State.storeDirection_params (n : Nat) (a b : Bool) : (s.storeDirection n a b).params = s.params := rfl

/-! ### State.runs -/

@[simp] theorem State.runs_cmd (r : SeqRegs) : (s.runs r).cmd = s.cmd := rfl
@[simp] theorem State.runs_flags (r : SeqRegs) : (s.runs r).flags = s.flags := rfl
@[simp] theorem State.runs_err (r : SeqRegs) : (s.runs r).err = s.err := rfl
@[simp] theorem State.runs_data (r : SeqRegs) : (s.runs r).data = s.data := rfl
@[simp] theorem State.runs_crc (r : SeqRegs) : (s.runs r).crc = s.crc := rfl
@[simp] theorem State.runs_ld (r : SeqRegs) : (s.runs r).ld = s.ld := rfl
@[simp] theorem State.runs_lfd (r : SeqRegs) : (s.runs r).lfd = s.lfd := rfl
@[simp] theorem State.runs_ldf (r : SeqRegs) : (s.runs r).ldf = s.ldf := rfl
@[simp] theorem State.runs_romNo (r : SeqRegs) : (s.runs r).romNo = s.romNo := rfl
@[simp] theorem State.runs_addr (r : SeqRegs) : (s.runs r).addr = s.addr := rfl
@[simp] theorem State.runs_sp (r : SeqRegs) : (s.runs r).sp = s.sp := rfl
@[simp] theorem State.runs_wth (r : SeqRegs) : (s.runs r).wth = s.wth := rfl
@[simp] theorem State.runs_wtl (r : SeqRegs) : (s.runs r).wtl = s.wtl := rfl
@[simp] theorem State.runs_wcfg (r : SeqRegs) : (s.runs r).wcfg = s.wcfg := rfl
@[simp] theorem State.runs_seq (r : SeqRegs) : (s.runs r).seq = .run r := rfl
@[simp] theorem State.runs_rstIn (r : SeqRegs) : (s.runs r).rstIn = s.rstIn := rfl
@[simp] theorem State.runs_line (r : SeqRegs) : (s.runs r).line = s.line := rfl
@[simp] theorem State.runs_rdata (r : SeqRegs) : (s.runs r).rdata = s.rdata := rfl
@[simp] theorem State.runs_hostQ (r : SeqRegs) : (s.runs r).hostQ = s.hostQ := rfl
@[simp] theorem State.runs_hostWait (r : SeqRegs) : (s.runs r).hostWait = s.hostWait := rfl
@[simp] theorem State.runs_freeReads (r : SeqRegs) : (s.runs r).freeReads = s.freeReads := rfl
@[simp] theorem State.runs_params (r : SeqRegs) : (s.runs r).params = s.params := rfl

/-! ### State.taken -/

@[simp] theorem State.taken_cmd (e : PortEvent) (q : List PortEvent) : (s.taken e q).cmd = s.cmd := rfl
@[simp] theorem State.taken_flags (e : PortEvent) (q : List PortEvent) : (s.taken e q).flags = s.flags := rfl
@[simp] theorem State.taken_err (e : PortEvent) (q : List PortEvent) : (s.taken e q).err = s.err := rfl
@[simp] theorem State.taken_data (e : PortEvent) (q : List PortEvent) : (s.taken e q).data = s.data := rfl
@[simp] theorem State.taken_crc (e : PortEvent) (q : List PortEvent) : (s.taken e q).crc = s.crc := rfl
@[simp] theorem State.taken_ld (e : PortEvent) (q : List PortEvent) : (s.taken e q).ld = s.ld := rfl
@[simp] theorem State.taken_lfd (e : PortEvent) (q : List PortEvent) : (s.taken e q).lfd = s.lfd := rfl
@[simp] theorem State.taken_ldf (e : PortEvent) (q : List PortEvent) : (s.taken e q).ldf = s.ldf := rfl
@[simp] theorem State.taken_romNo (e : PortEvent) (q : List PortEvent) : (s.taken e q).romNo = s.romNo := rfl
@[simp] theorem State.taken_addr (e : PortEvent) (q : List PortEvent) : (s.taken e q).addr = s.addr := rfl
@[simp] theorem State.taken_sp (e : PortEvent) (q : List PortEvent) : (s.taken e q).sp = s.sp := rfl
@[simp] theorem State.taken_wth (e : PortEvent) (q : List PortEvent) : (s.taken e q).wth = s.wth := rfl
@[simp] theorem State.taken_wtl (e : PortEvent) (q : List PortEvent) : (s.taken e q).wtl = s.wtl := rfl
@[simp] theorem State.taken_wcfg (e : PortEvent) (q : List PortEvent) : (s.taken e q).wcfg = s.wcfg := rfl
@[simp] theorem State.taken_seq (e : PortEvent) (q : List PortEvent) : (s.taken e q).seq = s.seq := rfl
@[simp] theorem State.taken_line (e : PortEvent) (q : List PortEvent) : (s.taken e q).line = s.line := rfl
@[simp] theorem State.taken_rdata (e : PortEvent) (q : List PortEvent) : (s.taken e q).rdata = s.rdata := rfl
@[simp] theorem State.taken_hostQ (e : PortEvent) (q : List PortEvent) : (s.taken e q).hostQ = q := rfl
@[simp] theorem State.taken_hostWait (e : PortEvent) (q : List PortEvent) : (s.taken e q).hostWait = e.hold := rfl
@[simp] theorem State.taken_freeReads (e : PortEvent) (q : List PortEvent) : (s.taken e q).freeReads = s.freeReads := rfl
@[simp] theorem State.taken_params (e : PortEvent) (q : List PortEvent) : (s.taken e q).params = s.params := rfl

/-! ### Flags.launched -/

@[simp] theorem Flags.launched_fault (f : Flags) : f.launched.fault = f.fault := rfl
@[simp] theorem Flags.launched_presence (f : Flags) : f.launched.presence = false := rfl
@[simp] theorem Flags.launched_ok (f : Flags) : f.launched.ok = false := rfl
@[simp] theorem Flags.launched_crcOk (f : Flags) : f.launched.crcOk = false := rfl
@[simp] theorem Flags.launched_nonzero (f : Flags) : f.launched.nonzero = false := rfl
@[simp] theorem Flags.launched_launched (f : Flags) : f.launched.launched = f.launched := rfl

/-! ### What a whole state is -/

/-- Launching twice is launching once. -/
@[simp] theorem State.launch_launch : s.launch.launch = s.launch := rfl

/-- Hardware reset keeps what is not the block's. -/
theorem State.hwReset_line : s.hwReset.line = { s.line with owOe := false } := rfl
@[simp] theorem State.hwReset_params : s.hwReset.params = s.params := rfl
@[simp] theorem State.hwReset_seq : s.hwReset.seq = .idle := rfl
@[simp] theorem State.hwReset_rstIn : s.hwReset.rstIn = s.rstIn := rfl
@[simp] theorem State.hwReset_flags : s.hwReset.flags = Flags.zero := rfl
@[simp] theorem State.hwReset_err : s.hwReset.err = .none := rfl
@[simp] theorem State.hwReset_hostQ : s.hwReset.hostQ = s.hostQ := rfl

end Sys2Proof.Machine
end

