-- ==== Sys2Proof/Laws/Line.lean ====
section
/-! SUPPORT. What each procedure of the line driver does, once: its answer, the trace it leaves, the time it takes, and that it
ends with the line released. -/

namespace Sys2Proof.Machine

/-! ## Bits and bytes -/

theorem byteBits_length (v : Byte) : (byteBits v).length = 8 := rfl

/-- A byte is its eight bits (20_memory.md R48). -/
theorem bitsByte_byteBits (v : Byte) : bitsByte (byteBits v) = v := by
  revert v
  decide

/-- Eight bits are the bits of their byte. -/
theorem byteBits_bitsByte (a b c d e f g h : Bool) :
    byteBits (bitsByte [a, b, c, d, e, f, g, h]) = [a, b, c, d, e, f, g, h] := by
  revert a b c d e f g h
  decide

theorem byteBits_bitsByte_of_length {l : List Bool} (hl : l.length = 8) : byteBits (bitsByte l) = l := by
  match l, hl with
  | [a, b, c, d, e, f, g, h], _ => exact byteBits_bitsByte a b c d e f g h

/-! ## Exchanges -/

variable (p : Params) (l : Line)

/-- 42_reset_presence.md R110: a reset answers the bus's presence bit and ends released. -/
theorem Line.busReset_eq :
    l.busReset p = (l.bus.reset.1,
      { owOe := false
        elapsed := l.elapsed + p.dur.rstLow + p.dur.rstWait + p.dur.rstPad
        bus := l.bus.reset.2
        trace := l.trace ++ [.reset l.bus.reset.1] }) := by
  simp [Line.busReset, Line.exchange, Slot.ops, Line.microOp, Line.sample, Line.record, lineLevel]

/-- 41_transport.md R101. -/
theorem Line.readBit_eq :
    l.readBit p = (l.bus.read.1,
      { owOe := false
        elapsed := l.elapsed + p.dur.rLow + p.dur.rWait + p.dur.rPad
        bus := l.bus.read.2
        trace := l.trace ++ [.read l.bus.read.1] }) := by
  simp [Line.readBit, Line.exchange, Slot.ops, Line.microOp, Line.sample, Line.record, lineLevel]

/-- 41_transport.md R100. -/
theorem Line.writeBit_eq (b : Bool) :
    l.writeBit p b =
      { owOe := false
        elapsed := l.elapsed + writeTime p.dur b
        bus := l.bus.write p b
        trace := l.trace ++ [.write b] } := by
  cases b <;> simp [Line.writeBit, Line.exchange, Slot.ops, Line.microOp, Line.record, writeTime, Nat.add_assoc]

@[simp] theorem Line.delay_owOe (t : Nat) : (l.delay t).owOe = l.owOe := rfl
@[simp] theorem Line.delay_elapsed (t : Nat) : (l.delay t).elapsed = l.elapsed + t := rfl
@[simp] theorem Line.delay_bus (t : Nat) : (l.delay t).bus = l.bus := rfl
@[simp] theorem Line.delay_trace (t : Nat) : (l.delay t).trace = l.trace := rfl

@[simp] theorem Line.busReset_owOe : (l.busReset p).2.owOe = false := by rw [Line.busReset_eq]
@[simp] theorem Line.busReset_trace : (l.busReset p).2.trace = l.trace ++ [.reset (l.busReset p).1] := by
  rw [Line.busReset_eq]
@[simp] theorem Line.readBit_owOe : (l.readBit p).2.owOe = false := by rw [Line.readBit_eq]
@[simp] theorem Line.readBit_trace : (l.readBit p).2.trace = l.trace ++ [.read (l.readBit p).1] := by
  rw [Line.readBit_eq]
@[simp] theorem Line.writeBit_owOe (b : Bool) : (l.writeBit p b).owOe = false := by rw [Line.writeBit_eq]
@[simp] theorem Line.writeBit_trace (b : Bool) : (l.writeBit p b).trace = l.trace ++ [.write b] := by
  rw [Line.writeBit_eq]

/-! ## Bytes out -/

theorem Line.writeBits_trace (bs : List Bool) : (l.writeBits p bs).trace = l.trace ++ bs.map .write := by
  induction bs generalizing l with
  | nil => simp [Line.writeBits]
  | cons b bs ih =>
    have h := ih (l.writeBit p b)
    simp only [Line.writeBits, List.foldl_cons] at h ⊢
    rw [h]
    simp

theorem Line.writeBits_owOe (bs : List Bool) (h : l.owOe = false) : (l.writeBits p bs).owOe = false := by
  induction bs generalizing l with
  | nil => simpa [Line.writeBits] using h
  | cons b bs ih =>
    have := ih (l.writeBit p b) (Line.writeBit_owOe p l b)
    simpa [Line.writeBits] using this

theorem Line.writeBits_elapsed (bs : List Bool) :
    (l.writeBits p bs).elapsed = l.elapsed + (bs.map (writeTime p.dur)).sum := by
  induction bs generalizing l with
  | nil => simp [Line.writeBits]
  | cons b bs ih =>
    have h := ih (l.writeBit p b)
    simp only [Line.writeBits, List.foldl_cons] at h ⊢
    rw [h, Line.writeBit_eq]
    simp [Nat.add_assoc]

theorem Line.writeBits_bus (bs : List Bool) :
    (l.writeBits p bs).bus = bs.foldl (fun bus b => bus.write p b) l.bus := by
  induction bs generalizing l with
  | nil => simp [Line.writeBits]
  | cons b bs ih =>
    have h := ih (l.writeBit p b)
    simp only [Line.writeBits, List.foldl_cons] at h ⊢
    rw [h, Line.writeBit_eq]

/-- 41_transport.md R102: the eight bits of the byte stand in the trace, bit 0 first. -/
@[simp] theorem Line.writeByte_trace (v : Byte) : (l.writeByte p v).trace = l.trace ++ txByte v := by
  simp [Line.writeByte, Line.writeBits_trace, txByte]

@[simp] theorem Line.writeByte_owOe (v : Byte) : (l.writeByte p v).owOe = false := by
  have h := Line.writeBits_owOe p (l.writeBit p (v.getLsbD 0)) (byteBits v).tail (Line.writeBit_owOe p l _)
  simp only [Line.writeBits, byteBits, List.tail_cons] at h
  simp only [Line.writeByte, Line.writeBits, byteBits, Line.delay_owOe, List.foldl_cons] at h ⊢
  exact h

theorem Line.writeByte_elapsed (v : Byte) :
    (l.writeByte p v).elapsed = l.elapsed + ((byteBits v).map (writeTime p.dur)).sum + p.dur.wByteGap := by
  simp [Line.writeByte, Line.writeBits_elapsed]

theorem Line.writeByte_bus (v : Byte) :
    (l.writeByte p v).bus = (byteBits v).foldl (fun bus b => bus.write p b) l.bus := by
  simp [Line.writeByte, Line.writeBits_bus]

/-- 20_memory.md R48: the bytes in order. -/
@[simp] theorem Line.writeBytes_trace (vs : List Byte) : (l.writeBytes p vs).trace = l.trace ++ txBytes vs := by
  induction vs generalizing l with
  | nil => simp [Line.writeBytes, txBytes]
  | cons v vs ih =>
    have h := ih (l.writeByte p v)
    simp only [Line.writeBytes, List.foldl_cons] at h ⊢
    rw [h]
    simp [txBytes]

theorem Line.writeBytes_owOe (vs : List Byte) (h : l.owOe = false) : (l.writeBytes p vs).owOe = false := by
  induction vs generalizing l with
  | nil => simpa [Line.writeBytes] using h
  | cons v vs ih =>
    have := ih (l.writeByte p v) (Line.writeByte_owOe p l v)
    simpa [Line.writeBytes] using this

/-- 45_scratchpad.md R140. -/
@[simp] theorem Line.select_trace (A : Address) :
    (l.select p A).trace = l.trace ++ txBytes (p.cmdMatchRom :: A.toList) := by
  simp [Line.select]

@[simp] theorem Line.select_owOe (A : Address) : (l.select p A).owOe = false := by
  have h := Line.writeBytes_owOe p (l.writeByte p p.cmdMatchRom) A.toList (Line.writeByte_owOe p l _)
  simpa [Line.select, Line.writeBytes] using h

/-! ## Bytes in -/

theorem Line.readBits_length (k : Nat) : (l.readBits p k).1.length = k := by
  induction k generalizing l with
  | zero => rfl
  | succ k ih => simp [Line.readBits, ih]

theorem Line.readBits_trace (k : Nat) : (l.readBits p k).2.trace = l.trace ++ (l.readBits p k).1.map .read := by
  induction k generalizing l with
  | zero => simp [Line.readBits]
  | succ k ih => simp [Line.readBits, ih]

theorem Line.readBits_owOe (k : Nat) (h : l.owOe = false) : (l.readBits p k).2.owOe = false := by
  induction k generalizing l with
  | zero => simpa [Line.readBits] using h
  | succ k ih => exact ih _ (by simp)

theorem Line.readBits_elapsed (k : Nat) :
    (l.readBits p k).2.elapsed =
      l.elapsed + k * (p.dur.rLow + p.dur.rWait + p.dur.rPad + p.dur.rBitGap) := by
  induction k generalizing l with
  | zero => simp [Line.readBits]
  | succ k ih =>
    simp only [Line.readBits, ih, Line.delay_elapsed, Line.readBit_eq]
    rw [Nat.succ_mul]
    omega

/-- 41_transport.md R103: the byte read is what the eight slots answered, bit 0 first. -/
@[simp] theorem Line.readByte_trace : (l.readByte p).2.trace = l.trace ++ rxByte (l.readByte p).1 := by
  simp only [Line.readByte, rxByte]
  rw [Line.readBits_trace, byteBits_bitsByte_of_length (Line.readBits_length p l 8)]

theorem Line.readBits_succ_owOe (k : Nat) : (l.readBits p (k + 1)).2.owOe = false := by
  simp only [Line.readBits]
  exact Line.readBits_owOe p _ k (by simp)

@[simp] theorem Line.readByte_owOe : (l.readByte p).2.owOe = false :=
  Line.readBits_succ_owOe p l 7

theorem Line.readByte_elapsed :
    (l.readByte p).2.elapsed = l.elapsed + 8 * (p.dur.rLow + p.dur.rWait + p.dur.rPad + p.dur.rBitGap) := by
  simp [Line.readByte, Line.readBits_elapsed]

end Sys2Proof.Machine
end

