-- ==== Sys2Proof/Laws/Operands.lean ====
section
/-! SUPPORT. The laws of the operand forms: elements of byte arrays, bits of bytes, bit positions of an address. -/

namespace Sys2Proof.Machine

/-! ## Elements of a byte array -/

variable {n : Nat}

theorem getD_of_lt (A : Vector Byte n) {k : Nat} (h : k < n) : A.getD k 0 = A[k] := by
  simp [Vector.getD, Array.getD, h]

theorem getD_of_ge (A : Vector Byte n) {k : Nat} (h : n ≤ k) : A.getD k 0 = 0 := by
  have : ¬ k < A.toArray.size := by simp; omega
  simp only [Vector.getD, Array.getD, this, dite_false]

/-- Read after write, and that a write leaves every other element alone. -/
theorem getD_setIfInBounds (A : Vector Byte n) (k j : Nat) (x : Byte) :
    (A.setIfInBounds k x).getD j 0 = if k = j ∧ j < n then x else A.getD j 0 := by
  by_cases hj : j < n
  · rw [getD_of_lt _ hj, getD_of_lt _ hj, Vector.getElem_setIfInBounds hj]
    simp [hj]
  · rw [getD_of_ge _ (Nat.le_of_not_lt hj), getD_of_ge _ (Nat.le_of_not_lt hj)]
    simp [hj]

theorem ext_getD {A B : Vector Byte n} (h : ∀ k, k < n → A.getD k 0 = B.getD k 0) : A = B := by
  refine Vector.ext fun k hk => ?_
  have := h k hk
  rwa [getD_of_lt _ hk, getD_of_lt _ hk] at this

/-! ## Bits of a byte -/

theorem setBit_getLsbD (v : Byte) (d : Bool) {i j : Nat} (hi : i < 8) (hj : j < 8) :
    (setBit v i d).getLsbD j = if i = j then d else v.getLsbD j := by
  have h1 : ((1 : Byte) <<< i).getLsbD j = decide (i = j) := by
    interval_cases i <;> interval_cases j <;> decide
  cases d
  · simp only [setBit, BitVec.getLsbD_and, BitVec.getLsbD_not, h1, Bool.false_eq_true, if_false]
    by_cases h : i = j <;> simp [h, hj]
  · simp only [setBit, BitVec.getLsbD_or, h1, if_true]
    by_cases h : i = j <;> simp [h]

/-! ## Bit positions of an address (10_state.md R16) -/

/-- Read after write at a bit position, and that a write leaves every other position alone. -/
theorem abit_setAbit (A : Address) (d : Bool) {n m : Nat} (hn : 1 ≤ n) (hn' : n ≤ 64) (hm : 1 ≤ m) (hm' : m ≤ 64) :
    abit (setAbit A n d) m = if n = m then d else abit A m := by
  have h1 : (m - 1) / 8 < 8 := by omega
  have h2 : (n - 1) % 8 < 8 := by omega
  have h3 : (m - 1) % 8 < 8 := by omega
  unfold abit setAbit
  rw [getD_setIfInBounds]
  by_cases hk : (n - 1) / 8 = (m - 1) / 8
  · rw [if_pos ⟨hk, h1⟩, setBit_getLsbD _ _ h2 h3, hk]
    by_cases hb : (n - 1) % 8 = (m - 1) % 8
    · have : n = m := by omega
      rw [if_pos hb, if_pos this]
    · have : n ≠ m := fun h => hb (by rw [h])
      rw [if_neg hb, if_neg this]
  · have : n ≠ m := fun h => hk (by rw [h])
    rw [if_neg (fun h => hk h.1), if_neg this]

/-- An address is its 64 bit positions. -/
theorem address_ext {A B : Address} (h : ∀ n, 1 ≤ n → n ≤ 64 → abit A n = abit B n) : A = B := by
  refine ext_getD fun k hk => BitVec.eq_of_getLsbD_eq fun i hi => ?_
  have h' := h (8 * k + i + 1) (by omega) (by omega)
  have e1 : (8 * k + i + 1 - 1) / 8 = k := by omega
  have e2 : (8 * k + i + 1 - 1) % 8 = i := by omega
  unfold abit at h'
  rwa [e1, e2] at h'

end Sys2Proof.Machine
end

