-- ==== Sys2Proof/Laws/Frames.lean ====
section
/-! SUPPORT. What the scratchpad frames do, once: the bytes stored, the trace, the time, the line released at the end
(45_scratchpad.md R140 to R142), and the frame-opening reset. -/

namespace Sys2Proof.Machine

variable (p : Params)

/-! ## Nine bytes into a scratchpad -/

/-- Bytes stored before are not touched by the rest of the read. -/
theorem Line.readPad_getD_below (k : Nat) (P : Pad) (l : Line) {j : Nat} (hj : j < 9 - k) :
    (l.readPad p k P).1.getD j 0 = P.getD j 0 := by
  induction k generalizing P l with
  | zero => rfl
  | succ k ih =>
    simp only [Line.readPad]
    rw [ih _ _ (by omega), getD_setIfInBounds, if_neg (fun h => by omega)]

/-- The byte read first lands in the first element. -/
theorem Line.readPad_getD_first (k : Nat) (P : Pad) (l : Line) (hk : k < 9) :
    (l.readPad p (k + 1) P).1.getD (8 - k) 0 = (l.readByte p).1 := by
  simp only [Line.readPad]
  rw [Line.readPad_getD_below p k _ _ (by omega), getD_setIfInBounds, if_pos ⟨rfl, by omega⟩]

theorem pad_drop (P : Pad) {k : Nat} (hk : k < 9) : P.toList.drop (8 - k) = P.getD (8 - k) 0 :: P.toList.drop (9 - k) := by
  have h1 : 8 - k < P.toList.length := by simp; omega
  have h2 : 9 - k = 8 - k + 1 := by omega
  rw [List.drop_eq_getElem_cons h1, h2, getD_of_lt P (show 8 - k < 9 by omega)]
  simp

/-- 45_scratchpad.md R141: the elements read are exactly the bytes on the line, in order. -/
theorem Line.readPad_trace (k : Nat) (P : Pad) (l : Line) (hk : k ≤ 9) :
    (l.readPad p k P).2.trace = l.trace ++ rxBytes ((l.readPad p k P).1.toList.drop (9 - k)) := by
  induction k generalizing P l with
  | zero =>
    have h : P.toList.drop 9 = [] := List.drop_eq_nil_of_le (by simp)
    simp [Line.readPad, rxBytes, h]
  | succ k ih =>
    have h1 := ih (P.setIfInBounds (8 - k) (l.readByte p).1) (l.readByte p).2 (by omega)
    have h2 := Line.readPad_getD_first p k P l (by omega)
    have h3 : 9 - (k + 1) = 8 - k := by omega
    rw [h3, pad_drop _ (by omega), h2]
    simp only [Line.readPad] at h1 ⊢
    rw [h1]
    simp [rxBytes]

theorem Line.readPad_owOe (k : Nat) (P : Pad) (l : Line) (h : l.owOe = false) : (l.readPad p k P).2.owOe = false := by
  induction k generalizing P l with
  | zero => simpa [Line.readPad] using h
  | succ k ih => exact ih _ _ (Line.readByte_owOe p l)

theorem Line.readPad_elapsed (k : Nat) (P : Pad) (l : Line) :
    (l.readPad p k P).2.elapsed = l.elapsed + k * readByteTime p.dur := by
  induction k generalizing P l with
  | zero => simp [Line.readPad]
  | succ k ih =>
    have h : (l.readByte p).2.elapsed = l.elapsed + readByteTime p.dur := Line.readByte_elapsed p l
    simp only [Line.readPad, ih, h, Nat.succ_mul]
    omega

/-! ## Frames -/

variable (s : State)

/-- 42_reset_presence.md R110, 10_state.md R17: the reset that opens a frame. -/
theorem State.openFrame_eq :
    s.openFrame = (s.line.bus.reset.1,
      { s with
        flags := { s.flags with presence := s.line.bus.reset.1 }
        line := {
          owOe := false
          elapsed := s.line.elapsed + s.params.dur.rstLow + s.params.dur.rstWait + s.params.dur.rstPad
          bus := s.line.bus.reset.2
          trace := s.line.trace ++ [.reset s.line.bus.reset.1] } }) := by
  simp only [State.openFrame, Line.busReset_eq]
  rfl

/-- 45_scratchpad.md R141, everything the read frame does: it stores the nine bytes it finds on the line and touches nothing
else but the line, which it leaves released. -/
theorem State.readFrame_spec :
    ∃ (P : Pad) (l : Line) (q : Bool), s.readFrame = { s with sp := P, line := l } ∧ l.owOe = false ∧
      l.trace = s.line.trace ++ readFrameTrace s.params s.addr P q := by
  generalize h : (((s.line.select s.params s.addr).writeByte s.params s.params.cmdReadScratchpad).readPad s.params 9
    s.sp) = y
  have ht := Line.readPad_trace s.params 9 s.sp
    ((s.line.select s.params s.addr).writeByte s.params s.params.cmdReadScratchpad) (Nat.le_refl 9)
  rw [h] at ht
  refine ⟨y.1, (y.2.busReset s.params).2, (y.2.busReset s.params).1, ?_, Line.busReset_owOe _ _, ?_⟩
  · simp only [State.readFrame, h]
  · rw [Line.busReset_trace, ht]
    simp [readFrameTrace, List.append_assoc]

/-- 45_scratchpad.md R142, everything the write frame does: it touches nothing but the line, which it leaves released. -/
theorem State.writeFrame_spec :
    ∃ (l : Line) (q : Bool), s.writeFrame = { s with line := l } ∧ l.owOe = false ∧
      l.trace = s.line.trace ++ writeFrameTrace s.params s.addr s.wth s.wtl s.wcfg q := by
  generalize h : (s.line.select s.params s.addr).writeBytes s.params
    [s.params.cmdWriteScratchpad, s.wth, s.wtl, s.wcfg] = y
  have ht : y.trace = s.line.trace ++ txBytes (s.params.cmdMatchRom :: s.addr.toList) ++
      txBytes [s.params.cmdWriteScratchpad, s.wth, s.wtl, s.wcfg] := by
    rw [← h, Line.writeBytes_trace, Line.select_trace]
  refine ⟨(y.busReset s.params).2, (y.busReset s.params).1, ?_, Line.busReset_owOe _ _, ?_⟩
  · simp only [State.writeFrame, State.onLine, h]
  · rw [Line.busReset_trace, ht]
    simp [writeFrameTrace, List.append_assoc]

end Sys2Proof.Machine
end

