-- ==== Sys2Proof/Laws/Exec.lean ====
section
/-! SUPPORT. Each command as one update of the state it starts from, over the procedures of the line; what the search loop
does at one position. Later proofs rewrite with these and never unfold a meaning. -/

namespace Sys2Proof.Machine

variable (s : State)

theorem exec_writeBit : exec .writeBit s = .next { s with
    flags := s.flags.result false true false false, err := .none, seq := .idle
    line := s.line.writeBit s.params (s.data.getLsbD 0) } := rfl

theorem exec_readBit : exec .readBit s = .next { s with
    flags := s.flags.result false true false false, err := .none, seq := .idle
    data := bitByte (s.line.readBit s.params).1, line := (s.line.readBit s.params).2 } := rfl

theorem exec_writeByte : exec .writeByte s = .next { s with
    flags := s.flags.result false true false false, err := .none, seq := .idle
    line := s.line.writeByte s.params s.data } := rfl

theorem exec_readByte : exec .readByte s = .next { s with
    flags := s.flags.result false true false false, err := .none, seq := .idle
    data := (s.line.readByte s.params).1, line := (s.line.readByte s.params).2 } := rfl

/-- The state of a launched command after the reset that opens its frame. -/
def State.opened (s : State) : State :=
  { s with
    flags := s.flags.result s.line.bus.reset.1 false false false
    err := .none
    line := (s.line.busReset s.params).2 }

theorem State.launch_openFrame : s.launch.openFrame = (s.line.bus.reset.1, s.opened) := by
  simp only [State.openFrame_eq, State.opened, Line.busReset_eq, State.launch]
  rfl

theorem exec_busReset :
    exec .busReset s = .next (if s.line.bus.reset.1 then s.opened.done true else s.opened.fail .busAbsent) := by
  simp only [exec, execBusReset, State.launch_openFrame]

theorem exec_readScratchpad :
    exec .readScratchpad s =
      .next (if s.line.bus.reset.1 then s.opened.readFrame.done true else s.opened.fail .busAbsent) := by
  simp only [exec, execReadScratchpad, State.readSp, State.launch_openFrame]
  generalize s.opened.readFrame = y
  cases s.line.bus.reset.1 <;> rfl

theorem exec_writeScratchpad :
    exec .writeScratchpad s =
      .next (if s.line.bus.reset.1 then s.opened.writeFrame.done true else s.opened.fail .busAbsent) := by
  simp only [exec, execWriteScratchpad, State.writeSp, State.launch_openFrame]
  generalize s.opened.writeFrame = y
  cases s.line.bus.reset.1 <;> rfl

theorem exec_isConnected :
    exec .isConnected s =
      .next (if s.line.bus.reset.1 then
        if s.opened.readFrame.checkPad.padPassed then s.opened.readFrame.checkPad.done true
        else s.opened.readFrame.checkPad.fail .integrityFailure
      else s.opened.fail .busAbsent) := by
  simp only [exec, execIsConnected, State.isConn, State.readSp, State.launch_openFrame]
  generalize s.opened.readFrame = y
  cases s.line.bus.reset.1
  · rfl
  · cases h : y.checkPad.padPassed <;> simp [h, State.fail]

/-- 45_scratchpad.md R146 after the connectivity check has passed, `t` the state it left. -/
def State.writeBack (t : State) (pat : Byte) : State :=
  if t.sp.getD 4 0 != pat then ((t.loadWriteBack pat).writeSp).2.done true else t.done true

theorem exec_setResolution :
    exec .setResolution s =
      .next (if s.line.bus.reset.1 then
        if s.opened.readFrame.checkPad.padPassed then s.opened.readFrame.checkPad.writeBack s.requestedPattern
        else s.opened.readFrame.checkPad.fail .integrityFailure
      else s.opened.fail .busAbsent) := by
  simp only [exec, execSetResolution, State.isConn, State.readSp, State.launch_openFrame, State.writeBack]
  generalize s.opened.readFrame = y
  cases s.line.bus.reset.1
  · rfl
  · cases h : y.checkPad.padPassed <;> simp [h, State.fail]

/-! ## Search -/

/-- 44_search.md R127 after the reset: the command byte and the traversal. -/
def State.searched (s : State) (c : Byte) : Option (BitVec 7) × State :=
  (s.opened.onLine fun l => l.writeByte s.params c).traverse 64 0

theorem exec_search {i : Instr} {c : Byte}
    (h : (i, c) ∈ [(Instr.searchRom, s.params.cmdSearchRom), (Instr.searchAlarm, s.params.cmdSearchAlarm)]) :
    exec i s =
      .next (if s.ldf then s.launch.done false
        else if s.line.bus.reset.1 then
          match (s.searched c).1 with
          | some lastZero => (s.searched c).2.searchFound lastZero
          | none => (s.searched c).2.searchFailed .searchAborted
        else s.opened.searchFailed .busAbsent) := by
  simp only [List.mem_cons, Prod.mk.injEq, List.not_mem_nil, or_false] at h
  rcases h with ⟨rfl, rfl⟩ | ⟨rfl, rfl⟩ <;>
    (simp only [exec, execSearchRom, execSearchAlarm, State.search, State.launch_openFrame, State.searched,
      State.launch_ldf, State.launch_params]
     try rfl)

/-- One position of the traversal (44_search.md R127 step 4) that is not aborted. -/
theorem State.traverse_step (k : Nat) (lastZero : BitVec 7) {a b : Bool} {l : Line}
    (ha : a = s.line.bus.read.1) (hb : b = (s.line.readBit s.params).2.bus.read.1)
    (hl : l = ((s.line.readBit s.params).2.readBit s.params).2) (hab : (a && b) = false) :
    State.traverse (k + 1) lastZero s =
      State.traverse k (s.lastZeroAt (64 - k) a b lastZero)
        { s with
          lfd := if s.zeroTaken (64 - k) a b && decide (64 - k < 9) then BitVec.ofNat 4 (64 - k) else s.lfd
          romNo := setAbit s.romNo (64 - k) (s.direction (64 - k) a b)
          line := l.writeBit s.params (s.direction (64 - k) a b) } := by
  have h1 : (s.line.readBit s.params).1 = a := by rw [Line.readBit_eq, ha]
  have h2 : ((s.line.readBit s.params).2.readBit s.params).1 = b := by rw [Line.readBit_eq, hb]
  simp only [State.traverse, h1, h2, hab, Bool.false_eq_true, if_false, ← hl]
  rfl

/-- One position of the traversal at which both bits read 1 (44_search.md R131). -/
theorem State.traverse_abort (k : Nat) (lastZero : BitVec 7)
    (ha : s.line.bus.read.1 = true) (hb : (s.line.readBit s.params).2.bus.read.1 = true) :
    State.traverse (k + 1) lastZero s =
      (none, { s with line := ((s.line.readBit s.params).2.readBit s.params).2 }) := by
  have h1 : (s.line.readBit s.params).1 = true := by rw [Line.readBit_eq, ha]
  have h2 : ((s.line.readBit s.params).2.readBit s.params).1 = true := by rw [Line.readBit_eq, hb]
  simp only [State.traverse, h1, h2, Bool.and_self, if_true]

end Sys2Proof.Machine
end

