-- ==== Sys2Proof/Laws/Crc.lean ====
section
/-! SUPPORT. The CRC of an address and of a scratchpad element by element, the all-zero test, and the two commands that check
what a register array holds (43_crc8.md R117, R121, R122). -/

namespace Sys2Proof.Machine

theorem addressCrc_eq (A : Address) : addressCrc A = crc8 [A[0], A[1], A[2], A[3], A[4], A[5], A[6]] := by
  unfold addressCrc
  congr 1
  obtain ⟨⟨l⟩, hl⟩ := A
  match l, hl with
  | [_, _, _, _, _, _, _, _], _ => rfl

theorem padCrc_eq (P : Pad) : padCrc P = crc8 [P[0], P[1], P[2], P[3], P[4], P[5], P[6], P[7]] := by
  unfold padCrc
  congr 1
  obtain ⟨⟨l⟩, hl⟩ := P
  match l, hl with
  | [_, _, _, _, _, _, _, _, _], _ => rfl

theorem padNonzero_iff (P : Pad) : padNonzero P = true ↔ ∃ k : Fin 9, P[k] ≠ 0x00 := by
  simp only [padNonzero, List.any_eq_true, bne_iff_ne]
  constructor
  · rintro ⟨v, hv, hne⟩
    obtain ⟨k, hk, rfl⟩ := List.getElem_of_mem hv
    exact ⟨⟨k, by simpa using hk⟩, by simpa using hne⟩
  · rintro ⟨k, hk⟩
    exact ⟨P[k], by simp, hk⟩

theorem padNonzero_eq (P : Pad) : padNonzero P = decide (∃ k : Fin 9, P[k] ≠ 0x00) := by
  rw [Bool.eq_iff_iff, padNonzero_iff, decide_eq_true_eq]

set_option maxRecDepth 20000 in
/-- 43_crc8.md R123: a step with one operand fixed is a bijection of the other. -/
theorem crc8Step_injective_left (c : Byte) {v w : Byte} (h : crc8Step c v = crc8Step c w) : v = w := by
  have key : ∀ a b : Byte, crc8Step 0 a = crc8Step 0 b → a = b := by
    have inv : ∃ f : Byte → Byte, ∀ a : Byte, f (crc8Step 0 a) = a := by
      refine ⟨fun y => Nat.iterate (fun y => if y.getLsbD 7 then ((y ^^^ 0x8C) <<< 1) ||| 1 else y <<< 1) 8 y, ?_⟩
      decide
    obtain ⟨f, hf⟩ := inv
    intro a b hab
    rw [← hf a, ← hf b, hab]
  have := key (c ^^^ v) (c ^^^ w) (by simpa [crc8Step] using h)
  simpa using this

variable (s : State)

theorem exec_checkAddr :
    exec .checkAddr s = .next { s with
      flags := s.flags.result false (decide (addressCrc s.addr = s.addr[7])) (decide (addressCrc s.addr = s.addr[7])) false
      err := if addressCrc s.addr = s.addr[7] then .none else .integrityFailure
      seq := .idle
      crc := addressCrc s.addr } := by
  simp only [exec, execCheckAddr, State.checkAddress, State.launch_addr, getD_of_lt s.addr (show 7 < 8 by decide)]
  by_cases h : addressCrc s.addr = s.addr[7] <;> simp only [h] <;> rfl

/-- 43_crc8.md R122: CHECK_SP as one update, and what IS_CONNECTED does once the nine bytes are in SP. -/
theorem State.checkPad_end :
    (if s.checkPad.padPassed then s.checkPad.done true else s.checkPad.fail .integrityFailure) = { s with
      flags := { s.flags with
        ok := decide (padCrc s.sp = s.sp[8]) && padNonzero s.sp
        crcOk := decide (padCrc s.sp = s.sp[8])
        nonzero := padNonzero s.sp }
      err := if decide (padCrc s.sp = s.sp[8]) && padNonzero s.sp then s.err else .integrityFailure
      seq := .idle
      crc := padCrc s.sp } := by
  simp only [State.checkPad, State.padPassed, getD_of_lt s.sp (show 8 < 9 by decide)]
  cases h : decide (padCrc s.sp = s.sp[8]) && padNonzero s.sp <;> rfl

theorem exec_checkSp :
    exec .checkSp s = .next { s with
      flags := s.flags.result false (decide (padCrc s.sp = s.sp[8]) && padNonzero s.sp)
        (decide (padCrc s.sp = s.sp[8])) (padNonzero s.sp)
      err := if decide (padCrc s.sp = s.sp[8]) && padNonzero s.sp then .none else .integrityFailure
      seq := .idle
      crc := padCrc s.sp } := by
  simp only [exec, execCheckSp, State.checkPad_end]
  rfl

end Sys2Proof.Machine
end

