-- ==== Sys2Proof/Laws/Devices.lean ====
section
/-! SUPPORT. The reference device model seen a byte at a time (20_memory.md R47). -/

namespace Sys2Proof.Machine

/-- The bits of a byte on one device, in wire order. -/
def Device.onByte (p : Params) (v : Byte) (d : Device) : Device :=
  (byteBits v).foldl (fun d b => d.onWrite p b) d

theorem Device.onByte_romCmd (p : Params) (v : Byte) (d : Device) (h : d.mode = .romCmd []) :
    d.onByte p v = { d with mode := d.romCommand p v } := by
  obtain ⟨rom, sp, alarm, mode⟩ := d
  cases (h : mode = .romCmd [])
  have e := bitsByte_byteBits v
  simp [byteBits] at e
  simp [Device.onByte, byteBits, Device.onWrite, Device.romCommand, e]

theorem Device.onByte_func (p : Params) (v : Byte) (d : Device) (h : d.mode = .func []) :
    d.onByte p v = { d with mode := funcCommand p v } := by
  obtain ⟨rom, sp, alarm, mode⟩ := d
  cases (h : mode = .func [])
  have e := bitsByte_byteBits v
  simp [byteBits] at e
  simp [Device.onByte, byteBits, Device.onWrite, e]

theorem Device.onByte_idle (p : Params) (v : Byte) (d : Device) (h : d.mode = .idle) : d.onByte p v = d := by
  simp [Device.onByte, byteBits, Device.onWrite, h]

variable (p : Params) (l : Line) (ds : List Device)

/-- Each device takes each written byte on its own. -/
theorem Line.writeByte_devices (v : Byte) (h : l.bus = .devices ds) :
    (l.writeByte p v).bus = .devices (ds.map (Device.onByte p v)) := by
  rw [Line.writeByte_bus, h]
  simp [byteBits, Bus.write, Device.onByte, List.map_map, Function.comp_def]

/-- 20_memory.md R47: presence is a list that is not empty, and every device waits for a ROM command. -/
theorem Bus.reset_devices : (Bus.devices ds).reset = (!ds.isEmpty, .devices (ds.map Device.onReset)) := rfl

/-- 20_memory.md R47: the wired AND of all offers. -/
theorem Bus.read_devices : (Bus.devices ds).read = (ds.all Device.offer, .devices (ds.map Device.onRead)) := rfl

end Sys2Proof.Machine
end

