-- ==== Sys2Proof/Laws/Scratchpad.lean ====
section
/-! SUPPORT. The scratchpad commands once a reset has found presence: the state before the frame, after the checks, and after
the write-back of SET_RESOLUTION (45_scratchpad.md R146, R147). -/

namespace Sys2Proof.Machine

variable (s : State)

/-- A launched command whose first reset found presence. -/
theorem State.opened_of_presence (h : s.line.bus.reset.1 = true) :
    s.opened = { s with
      flags := s.flags.result true false false false, err := .none, line := s.opened.line } := by
  simp only [State.opened, h]

theorem State.opened_trace : s.opened.line.trace = s.line.trace ++ [.reset s.line.bus.reset.1] := by
  simp only [State.opened, Line.busReset_eq]

@[simp] theorem State.opened_sp : s.opened.sp = s.sp := rfl
@[simp] theorem State.opened_addr : s.opened.addr = s.addr := rfl
@[simp] theorem State.opened_params : s.opened.params = s.params := rfl
@[simp] theorem State.opened_owOe : s.opened.line.owOe = false := by simp only [State.opened, Line.busReset_owOe]

/-- 45_scratchpad.md R141, R147: the state after the nine bytes have been read and checked, presence given. -/
theorem State.checked_spec (h : s.line.bus.reset.1 = true) :
    ∃ (P : Pad) (l : Line) (q : Bool),
      s.opened.readFrame.checkPad = { s with
        flags := s.flags.result true false (decide (padCrc P = P[8])) (padNonzero P)
        err := .none
        sp := P
        crc := padCrc P
        line := l } ∧
      l.owOe = false ∧ l.trace = s.line.trace ++ [.reset true] ++ readFrameTrace s.params s.addr P q := by
  obtain ⟨P, l, q, h1, h2, h3⟩ := s.opened.readFrame_spec
  refine ⟨P, l, q, ?_, h2, ?_⟩
  · rw [h1, State.opened_of_presence s h]
    simp only [State.checkPad, getD_of_lt P (show 8 < 9 by decide)]
    rfl
  · rw [h3, State.opened_trace, h, State.opened_params, State.opened_addr]

/-- 30_encoding.md R78: the pattern SET_RESOLUTION asks for, by the unsigned value of DATA. -/
theorem State.requestedPattern_eq :
    s.requestedPattern = if s.data.toNat ≤ 9 then s.params.cfg9 else if s.data.toNat = 10 then s.params.cfg10
      else if s.data.toNat = 11 then s.params.cfg11 else s.params.cfg12 := by
  have key : ∀ v : Byte, (clampResolution v = 9 ↔ v.toNat ≤ 9) ∧ (clampResolution v = 10 ↔ v.toNat = 10) ∧
      (clampResolution v = 11 ↔ v.toNat = 11) := by decide
  simp only [State.requestedPattern, resolutionPattern, key]

/-- 45_scratchpad.md R146: no write-back when the pattern is already in the snapshot. -/
theorem State.writeBack_same {pat : Byte} (h : s.sp[4] = pat) : s.writeBack pat = s.done true := by
  have h4 : (s.sp.getD 4 0 != pat) = false := by rw [getD_of_lt s.sp (show 4 < 9 by decide), h, bne_self_eq_false]
  rw [State.writeBack, h4, if_neg Bool.false_ne_true]

/-- 45_scratchpad.md R146: the write-back, its own presence result and what stands on the line. -/
theorem State.writeBack_changed {pat : Byte} (h : s.sp[4] ≠ pat) :
    ∃ (l : Line) (again last : Bool),
      s.writeBack pat = { s with
        flags := { s.flags with presence := again, ok := true }
        seq := .idle
        wth := s.sp[2]
        wtl := s.sp[3]
        wcfg := pat
        line := l } ∧
      l.owOe = false ∧
      l.trace = s.line.trace ++ [.reset again] ++
        (if again then writeFrameTrace s.params s.addr s.sp[2] s.sp[3] pat last else []) := by
  have h4 : (s.sp.getD 4 0 != pat) = true := by
    rw [getD_of_lt s.sp (show 4 < 9 by decide)]
    exact bne_iff_ne.mpr h
  simp only [State.writeBack, h4, if_true, State.writeSp, State.openFrame_eq, State.loadWriteBack,
    getD_of_lt s.sp (show 2 < 9 by decide), getD_of_lt s.sp (show 3 < 9 by decide)]
  cases hb : s.line.bus.reset.1 with
  | false => exact ⟨_, false, false, rfl, rfl, by simp⟩
  | true =>
    obtain ⟨l, q, h1, h2, h3⟩ := State.writeFrame_spec { s with
      flags := { s.flags with presence := true }
      wth := s.sp[2]
      wtl := s.sp[3]
      wcfg := pat
      line := {
        owOe := false
        elapsed := s.line.elapsed + s.params.dur.rstLow + s.params.dur.rstWait + s.params.dur.rstPad
        bus := s.line.bus.reset.2
        trace := s.line.trace ++ [.reset true] } }
    refine ⟨l, true, q, ?_, h2, ?_⟩
    · simp only [if_true, h1]
      rfl
    · rw [h3]
      simp

end Sys2Proof.Machine
end

