-- ==== Sys2Proof/Laws/Search.lean ====
section
/-! SUPPORT. What the search loop can touch (44_search.md R127), and what every search leaves. -/

namespace Sys2Proof.Machine

/-- The traversal touches LFD, ROM_NO and the line and nothing else, and leaves the line released. -/
theorem State.traverse_frame (k : Nat) (lastZero : BitVec 7) (s : State) (h : s.line.owOe = false) :
    ∃ (m : BitVec 4) (R : Address) (l : Line),
      (State.traverse k lastZero s).2 = { s with lfd := m, romNo := R, line := l } ∧ l.owOe = false := by
  induction k generalizing lastZero s with
  | zero => exact ⟨s.lfd, s.romNo, s.line, rfl, h⟩
  | succ k ih =>
    cases hab : s.line.bus.read.1 && (s.line.readBit s.params).2.bus.read.1 with
    | true =>
      simp only [Bool.and_eq_true] at hab
      rw [State.traverse_abort s k lastZero hab.1 hab.2]
      exact ⟨s.lfd, s.romNo, _, rfl, Line.readBit_owOe _ _⟩
    | false =>
      rw [State.traverse_step s k lastZero rfl rfl rfl hab]
      refine ih _ _ ?_
      exact Line.writeBit_owOe _ _ _

/-- Everything a search can leave: the results, the three registers of the search state, ROM_NO and the line. -/
theorem exec_search_frame (s : State) {i : Instr} (hi : i ∈ [Instr.searchRom, .searchAlarm]) :
    ∃ (presence ok : Bool) (e : ErrCode) (a : BitVec 7) (m : BitVec 4) (z : Bool) (R : Address) (l : Line),
      exec i s = .next { s with
        flags := s.flags.result presence ok false false
        err := e
        seq := .idle
        ld := a
        lfd := m
        ldf := z
        romNo := R
        line := l } ∧
      (ok = true → e = .none) ∧ e ≠ .malformedInput ∧ (s.line.owOe = false → l.owOe = false) := by
  have key : ∀ c : Byte, (i, c) ∈ [(Instr.searchRom, s.params.cmdSearchRom), (Instr.searchAlarm, s.params.cmdSearchAlarm)] →
      ∃ (presence ok : Bool) (e : ErrCode) (a : BitVec 7) (m : BitVec 4) (z : Bool) (R : Address) (l : Line),
        exec i s = .next { s with
          flags := s.flags.result presence ok false false
          err := e
          seq := .idle
          ld := a
          lfd := m
          ldf := z
          romNo := R
          line := l } ∧
        (ok = true → e = .none) ∧ e ≠ .malformedInput ∧ (s.line.owOe = false → l.owOe = false) := by
    intro c hc
    rw [exec_search s hc]
    by_cases hz : s.ldf = true
    · rw [if_pos hz]
      exact ⟨false, false, .none, s.ld, s.lfd, s.ldf, s.romNo, s.line, rfl, fun _ => rfl, by decide, id⟩
    rw [if_neg hz]
    cases hp : s.line.bus.reset.1 with
    | false =>
      rw [if_neg Bool.false_ne_true]
      refine ⟨false, false, .busAbsent, 0, 0, false, s.romNo, s.opened.line, ?_, by simp, by decide, fun _ => s.opened_owOe⟩
      simp only [State.searchFailed, State.opened, hp]
      rfl
    | true =>
      rw [if_pos rfl]
      obtain ⟨m, R, l, h1, h2⟩ := State.traverse_frame 64 0
        (s.opened.onLine fun l => l.writeByte s.params c) (Line.writeByte_owOe _ _ _)
      have h1' : (s.searched c).2 = _ := h1
      cases hr : (s.searched c).1 with
      | none =>
        refine ⟨true, false, .searchAborted, 0, 0, false, R, l, ?_, by simp, by decide, fun _ => h2⟩
        simp only [h1']
        rw [State.opened_of_presence s hp]
        rfl
      | some z =>
        refine ⟨true, true, .none, z, m, s.ldf || decide (z = 0), R, l, ?_, fun _ => rfl, by decide, fun _ => h2⟩
        simp only [h1']
        rw [State.opened_of_presence s hp]
        rfl
  simp only [List.mem_cons, List.not_mem_nil, or_false] at hi
  rcases hi with rfl | rfl
  · exact key s.params.cmdSearchRom (by simp)
  · exact key s.params.cmdSearchAlarm (by simp)

end Sys2Proof.Machine
end

