-- ==== Sys2Proof/Laws/Effects.lean ====
section
/-! SUPPORT. Everything any command can do to State, once, and that every step answers a next state. -/

namespace Sys2Proof.Machine

/-- 30_encoding.md R77, 60_exceptions.md R176: any command ends idle, leaves CMD, ADDR, the host port, the configuration and
FAULT alone, reports OK only without an error, never reports MalformedInput, and leaves a released line released. -/
def Effects (i : Instr) (s : State) : Prop :=
  ∃ (presence ok crcOk nonzero : Bool) (e : ErrCode) (v c : Byte) (a : BitVec 7) (m : BitVec 4) (z : Bool) (R : Address)
      (P : Pad) (th tl cfg : Byte) (l : Line),
      exec i s = .next { s with
        flags := s.flags.result presence ok crcOk nonzero
        err := e
        data := v
        crc := c
        ld := a
        lfd := m
        ldf := z
        romNo := R
        sp := P
        wth := th
        wtl := tl
        wcfg := cfg
        seq := .idle
        line := l } ∧
      (ok = true → e = .none) ∧ e ≠ .malformedInput ∧ (s.line.owOe = false → l.owOe = false)

/-- 30_encoding.md R77: every command, from every state, has only these effects. -/
theorem exec_effects (i : Instr) (s : State) : Effects i s := by
  have done : ∀ (v : Byte) (c : Byte) (a : BitVec 7) (m : BitVec 4) (z : Bool) (P : Pad) (l : Line) (p ok g n : Bool)
      (e : ErrCode), (ok = true → e = .none) → e ≠ .malformedInput → (s.line.owOe = false → l.owOe = false) →
      exec i s = .next { s with
        flags := s.flags.result p ok g n, err := e, data := v, crc := c, ld := a, lfd := m, ldf := z, sp := P
        seq := .idle, line := l } → Effects i s :=
    fun v c a m z P l p ok g n e h1 h2 h3 h => ⟨p, ok, g, n, e, v, c, a, m, z, s.romNo, P, s.wth, s.wtl, s.wcfg, l, h, h1, h2, h3⟩
  have checked : ∀ (g n : Bool), (g && n) = true → (if g && n then ErrCode.none else .integrityFailure) = .none :=
    fun g n h => if_pos h
  have notMal : ∀ b : Bool, (if b then ErrCode.none else .integrityFailure) ≠ .malformedInput := by decide
  cases i with
  | writeBit =>
    exact done _ _ _ _ _ _ _ _ _ _ _ _ (fun _ => rfl) (by decide) (fun _ => Line.writeBit_owOe _ _ _) (exec_writeBit s)
  | readBit => exact done _ _ _ _ _ _ _ _ _ _ _ _ (fun _ => rfl) (by decide) (fun _ => Line.readBit_owOe _ _) (exec_readBit s)
  | writeByte =>
    exact done _ _ _ _ _ _ _ _ _ _ _ _ (fun _ => rfl) (by decide) (fun _ => Line.writeByte_owOe _ _ _) (exec_writeByte s)
  | readByte =>
    exact done _ _ _ _ _ _ _ _ _ _ _ _ (fun _ => rfl) (by decide) (fun _ => Line.readByte_owOe _ _) (exec_readByte s)
  | busReset =>
    have h := exec_busReset s
    cases hp : s.line.bus.reset.1 with
    | false =>
      refine done s.data s.crc s.ld s.lfd s.ldf s.sp s.opened.line false false false false .busAbsent (by simp) (by decide)
        (fun _ => s.opened_owOe) ?_
      rw [h, hp, if_neg Bool.false_ne_true]
      simp only [State.opened, hp]
      rfl
    | true =>
      refine done s.data s.crc s.ld s.lfd s.ldf s.sp s.opened.line true true false false .none (fun _ => rfl) (by decide)
        (fun _ => s.opened_owOe) ?_
      rw [h, hp, if_pos rfl, State.opened_of_presence s hp]
      rfl
  | crcInit => exact done _ _ _ _ _ _ _ _ _ _ _ _ (fun _ => rfl) (by decide) id rfl
  | crcByte => exact done _ _ _ _ _ _ _ _ _ _ _ _ (fun _ => rfl) (by decide) id rfl
  | checkAddr =>
    refine done _ _ _ _ _ _ _ _ _ _ _ _ (fun h => if_pos (of_decide_eq_true h)) ?_ id (exec_checkAddr s)
    split <;> decide
  | checkSp => exact done _ _ _ _ _ _ _ _ _ _ _ _ (checked _ _) (notMal _) id (exec_checkSp s)
  | searchReset => exact done _ _ _ _ _ _ _ _ _ _ _ _ (fun _ => rfl) (by decide) id rfl
  | searchRom =>
    obtain ⟨p, ok, e, a, m, z, R, l, h1, h2, h3, h4⟩ := exec_search_frame s (i := .searchRom) (by simp)
    exact ⟨p, ok, false, false, e, s.data, s.crc, a, m, z, R, s.sp, s.wth, s.wtl, s.wcfg, l, h1, h2, h3, h4⟩
  | searchAlarm =>
    obtain ⟨p, ok, e, a, m, z, R, l, h1, h2, h3, h4⟩ := exec_search_frame s (i := .searchAlarm) (by simp)
    exact ⟨p, ok, false, false, e, s.data, s.crc, a, m, z, R, s.sp, s.wth, s.wtl, s.wcfg, l, h1, h2, h3, h4⟩
  | readScratchpad =>
    have h := exec_readScratchpad s
    cases hp : s.line.bus.reset.1 with
    | false =>
      refine done s.data s.crc s.ld s.lfd s.ldf s.sp s.opened.line false false false false .busAbsent (by simp) (by decide)
        (fun _ => s.opened_owOe) ?_
      rw [h, hp, if_neg Bool.false_ne_true]
      simp only [State.opened, hp]
      rfl
    | true =>
      obtain ⟨P, l, q, h1, h2, -⟩ := s.opened.readFrame_spec
      refine done s.data s.crc s.ld s.lfd s.ldf P l true true false false .none (fun _ => rfl) (by decide) (fun _ => h2) ?_
      rw [h, hp, if_pos rfl, h1, State.opened_of_presence s hp]
      rfl
  | writeScratchpad =>
    have h := exec_writeScratchpad s
    cases hp : s.line.bus.reset.1 with
    | false =>
      refine done s.data s.crc s.ld s.lfd s.ldf s.sp s.opened.line false false false false .busAbsent (by simp) (by decide)
        (fun _ => s.opened_owOe) ?_
      rw [h, hp, if_neg Bool.false_ne_true]
      simp only [State.opened, hp]
      rfl
    | true =>
      obtain ⟨l, q, h1, h2, -⟩ := s.opened.writeFrame_spec
      refine done s.data s.crc s.ld s.lfd s.ldf s.sp l true true false false .none (fun _ => rfl) (by decide) (fun _ => h2) ?_
      rw [h, hp, if_pos rfl, h1, State.opened_of_presence s hp]
      rfl
  | isConnected =>
    have h := exec_isConnected s
    cases hp : s.line.bus.reset.1 with
    | false =>
      refine done s.data s.crc s.ld s.lfd s.ldf s.sp s.opened.line false false false false .busAbsent (by simp) (by decide)
        (fun _ => s.opened_owOe) ?_
      rw [h, hp, if_neg Bool.false_ne_true]
      simp only [State.opened, hp]
      rfl
    | true =>
      obtain ⟨P, l, q, h1, h2, -⟩ := s.opened.readFrame_spec
      refine done s.data (padCrc P) s.ld s.lfd s.ldf P l true (decide (padCrc P = P[8]) && padNonzero P)
        (decide (padCrc P = P[8])) (padNonzero P) _ (checked _ _) (notMal _) (fun _ => h2) ?_
      rw [h, hp, if_pos rfl, h1, State.checkPad_end, State.opened_of_presence s hp]
      rfl
  | setResolution =>
    have h := exec_setResolution s
    cases hp : s.line.bus.reset.1 with
    | false =>
      refine done s.data s.crc s.ld s.lfd s.ldf s.sp s.opened.line false false false false .busAbsent (by simp) (by decide)
        (fun _ => s.opened_owOe) ?_
      rw [h, hp, if_neg Bool.false_ne_true]
      simp only [State.opened, hp]
      rfl
    | true =>
      obtain ⟨P, l, q, h1, h2, -⟩ := State.checked_spec s hp
      rw [hp, if_pos rfl] at h
      cases hg : s.opened.readFrame.checkPad.padPassed with
      | false =>
        rw [hg, if_neg Bool.false_ne_true, h1] at h
        exact done s.data (padCrc P) s.ld s.lfd s.ldf P l true false _ _ .integrityFailure (by simp) (by decide)
          (fun _ => h2) h
      | true =>
        rw [hg, if_pos rfl] at h
        by_cases h4 : s.opened.readFrame.checkPad.sp[4] = s.requestedPattern
        · rw [State.writeBack_same _ h4, h1] at h
          exact done s.data (padCrc P) s.ld s.lfd s.ldf P l true true _ _ .none (fun _ => rfl) (by decide) (fun _ => h2) h
        · obtain ⟨l2, again, last, w1, w2, -⟩ := State.writeBack_changed _ h4
          rw [w1, h1] at h
          exact ⟨again, true, _, _, .none, s.data, padCrc P, s.ld, s.lfd, s.ldf, s.romNo, P, _, _, _, l2, h, fun _ => rfl,
            by decide, fun _ => w2⟩

theorem exec_next (i : Instr) (s : State) : ∃ t, exec i s = .next t := by
  obtain ⟨_, _, _, _, _, _, _, _, _, _, _, _, _, _, _, _, h, -⟩ := exec_effects i s
  exact ⟨_, h⟩

/-! ## What a step is -/

/-- 70_reset_and_hazards.md R190: the block is held in reset. -/
theorem step_held {s : State} (h : s.rstIn = true) : step s = .next (heldStep s) := if_pos h

/-- The block is idle. -/
theorem step_idle {s : State} (h : s.rstIn = false) (hs : s.seq = .idle) : step s = idleStep s := by
  unfold step
  rw [h, hs, if_neg Bool.false_ne_true]

/-- The block is idle and an event is pending. -/
theorem step_idle_event {s : State} {e : PortEvent} {q : List PortEvent} (h : s.rstIn = false) (hs : s.seq = .idle)
    (hq : s.hostQ = e :: q) : step s = idleEvent e (s.taken e q) := by
  rw [step_idle h hs]
  unfold idleStep
  rw [hq]

/-- A command runs. -/
theorem step_run {s : State} {r : SeqRegs} (h : s.rstIn = false) (hs : s.seq = .run r) : step s = .next (busyStep s) := by
  unfold step
  rw [h, hs, if_neg Bool.false_ne_true]

/-- A command runs and an event is due. -/
theorem step_run_event {s : State} {r : SeqRegs} {e : PortEvent} {q : List PortEvent} (h : s.rstIn = false)
    (hs : s.seq = .run r) (hw : s.hostWait = some 0) (hq : s.hostQ = e :: q) :
    step s = .next (busyEvent e (s.taken e q)) := by
  rw [step_run h hs]
  unfold busyStep
  rw [hw, hq]

end Sys2Proof.Machine
end

