-- ==== Sys2Proof/Laws/PerInstr.lean ====
section
/-! SUPPORT. Facts about each command as syntax, one lemma per constructor. -/

namespace Sys2Proof.Laws

namespace OneByte

/-- 30_encoding.md R71, R75, R79: the command is well formed, its encoding is one byte, the opcode, that byte lies in 0x01 to
0x10, and the decoder reads the command back from it with nothing left over. -/
def Statement (i : Instr) : Prop :=
  i.wf = true ∧ encode i = [i.opcode] ∧ 0x01 ≤ i.opcode.toNat ∧ i.opcode.toNat ≤ 0x10 ∧ decode (encode i) = .ok (i, [])

theorem writeBit : Statement .writeBit := ⟨rfl, rfl, by decide, by decide, rfl⟩
theorem readBit : Statement .readBit := ⟨rfl, rfl, by decide, by decide, rfl⟩
theorem writeByte : Statement .writeByte := ⟨rfl, rfl, by decide, by decide, rfl⟩
theorem readByte : Statement .readByte := ⟨rfl, rfl, by decide, by decide, rfl⟩
theorem busReset : Statement .busReset := ⟨rfl, rfl, by decide, by decide, rfl⟩
theorem crcInit : Statement .crcInit := ⟨rfl, rfl, by decide, by decide, rfl⟩
theorem crcByte : Statement .crcByte := ⟨rfl, rfl, by decide, by decide, rfl⟩
theorem checkAddr : Statement .checkAddr := ⟨rfl, rfl, by decide, by decide, rfl⟩
theorem checkSp : Statement .checkSp := ⟨rfl, rfl, by decide, by decide, rfl⟩
theorem searchReset : Statement .searchReset := ⟨rfl, rfl, by decide, by decide, rfl⟩
theorem searchRom : Statement .searchRom := ⟨rfl, rfl, by decide, by decide, rfl⟩
theorem searchAlarm : Statement .searchAlarm := ⟨rfl, rfl, by decide, by decide, rfl⟩
theorem readScratchpad : Statement .readScratchpad := ⟨rfl, rfl, by decide, by decide, rfl⟩
theorem writeScratchpad : Statement .writeScratchpad := ⟨rfl, rfl, by decide, by decide, rfl⟩
theorem isConnected : Statement .isConnected := ⟨rfl, rfl, by decide, by decide, rfl⟩
theorem setResolution : Statement .setResolution := ⟨rfl, rfl, by decide, by decide, rfl⟩

end OneByte

end Sys2Proof.Laws
end

