-- ==== Sys2Proof/Laws/Sequencer.lean ====
section
/-! SUPPORT. What one tick of the sequencer can do (10_state.md R20): every exchange it starts ends with the line released, and
each tick keeps the host port, FAULT and the invariant. -/

namespace Sys2Proof.Machine

/-! ## Every exchange ends released -/

theorem endsReleased_start (p : Params) (ph : Phase) (slot : Slot) (gap : Nat) (r : SeqRegs) (b : Bool) :
    endsReleased b (r.start p ph slot gap).ops = true := by
  cases slot with
  | write d => cases d <;> rfl
  | _ => rfl

theorem endsReleased_send (p : Params) (ph : Phase) (v : Byte) (r : SeqRegs) (b : Bool) :
    endsReleased b (r.send p ph v).ops = true :=
  endsReleased_start p ph _ _ _ b

theorem endsReleased_sendNext (p : Params) (r : SeqRegs) (b : Bool) : endsReleased b (r.sendNext p).ops = true :=
  endsReleased_start p _ _ _ _ b

theorem endsReleased_receive (p : Params) (ph : Phase) (r : SeqRegs) (b : Bool) :
    endsReleased b (r.receive p ph).ops = true :=
  endsReleased_start p ph _ _ _ b

theorem endsReleased_receiveNext (p : Params) (r : SeqRegs) (b : Bool) : endsReleased b (r.receiveNext p).ops = true :=
  endsReleased_start p _ _ _ _ b

/-- A command about to start, the line released: its first exchange ends released, or it makes none. -/
theorem endsReleased_first (i : Instr) (s : State) (h : s.line.owOe = false) :
    endsReleased s.line.owOe (SeqRegs.first i s).ops = true := by
  cases i <;> simp only [SeqRegs.first] <;> (try split) <;>
    first
      | (rw [h]; rfl)
      | exact endsReleased_start _ _ _ _ _ _

theorem endsReleased_microOp (op : MicroOp) (ops : List MicroOp) (slot : Slot) (x : Bool × Line)
    (h : endsReleased x.2.owOe (op :: ops) = true) : endsReleased (Line.microOp slot op x).2.owOe ops = true := by
  cases op with
  | sample => cases slot <;> exact h
  | _ => exact h

/-! ## The end of an exchange -/

/-- What the end of an exchange keeps. -/
structure AdvanceEffect (s t : State) : Prop where
  fault : t.flags.fault = s.flags.fault
  hostQ : t.hostQ = s.hostQ
  hostWait : t.hostWait = s.hostWait
  rstIn : t.rstIn = s.rstIn
  inv : s.rstIn = false → s.line.owOe = false → s.flags.ok = false → s.err = .none → t.Inv

/-- A block out of reset need not be cleared. -/
theorem notHeld {t : State} (h : t.rstIn = false) : t.rstIn = true → t.Cleared := by
  rw [h]
  exact fun h => nomatch h

theorem AdvanceEffect.done {s t : State} {ok : Bool} (h1 : t.flags.fault = s.flags.fault) (h2 : t.hostQ = s.hostQ)
    (h3 : t.hostWait = s.hostWait) (h4 : t.rstIn = s.rstIn) (h5 : s.line.owOe = false → t.line.owOe = false)
    (h6 : s.err = .none → t.err = .none) : AdvanceEffect s (t.done ok) where
  fault := h1
  hostQ := h2
  hostWait := h3
  rstIn := h4
  inv hn ho _ he := ⟨h5 ho, fun _ => h6 he, by simp [h6 he], notHeld (h4.trans hn)⟩

theorem AdvanceEffect.fail {s t : State} {e : ErrCode} (h1 : t.flags.fault = s.flags.fault) (h2 : t.hostQ = s.hostQ)
    (h3 : t.hostWait = s.hostWait) (h4 : t.rstIn = s.rstIn) (h5 : s.line.owOe = false → t.line.owOe = false)
    (h6 : e ≠ .malformedInput) : AdvanceEffect s (t.fail e) where
  fault := h1
  hostQ := h2
  hostWait := h3
  rstIn := h4
  inv hn ho _ _ := ⟨h5 ho, fun h => by simp at h, h6, notHeld (h4.trans hn)⟩

theorem AdvanceEffect.runs {s t : State} {r : SeqRegs} (h1 : t.flags.fault = s.flags.fault) (h2 : t.hostQ = s.hostQ)
    (h3 : t.hostWait = s.hostWait) (h4 : t.rstIn = s.rstIn) (h5 : s.err = .none → t.err = .none)
    (h6 : s.flags.ok = false → t.flags.ok = false) (h7 : s.line.owOe = false → endsReleased t.line.owOe r.ops = true) :
    AdvanceEffect s (t.runs r) where
  fault := h1
  hostQ := h2
  hostWait := h3
  rstIn := h4
  inv hn ho hok he := by
    refine ⟨⟨h7 ho, h6 hok, h5 he⟩, fun _ => h5 he, ?_, notHeld (h4.trans hn)⟩
    show t.err ≠ _
    rw [h5 he]
    decide

theorem SeqRegs.advance_effect (r : SeqRegs) (s : State) : AdvanceEffect s (r.advance s) := by
  obtain ⟨cmd, phase, _, _, _, _, _, _, _, _, _, _, _, _, _⟩ := r
  cases phase
  case compute =>
    obtain ⟨_, _, _, _, _, _, _, _, _, _, _, _, _, _, _, _, h, h1, h2, h3⟩ := exec_effects cmd s
    show AdvanceEffect s (computed cmd s)
    unfold computed
    rw [h]
    exact ⟨rfl, rfl, rfl, rfl, fun hn ho _ _ => ⟨h3 ho, h1, h2, notHeld hn⟩⟩
  all_goals
    simp only [SeqRegs.advance, SeqRegs.sent, SeqRegs.readFrameClosed, State.searchFailed, State.searchFound]
    repeat' split
  all_goals first
    | exact AdvanceEffect.done rfl rfl rfl rfl id id
    | exact AdvanceEffect.fail rfl rfl rfl rfl id (by decide)
    | exact AdvanceEffect.runs rfl rfl rfl rfl id id fun _ => endsReleased_start _ _ _ _ _ _

/-! ## One tick -/

/-- The end of an exchange, with or without a settle DELAY to come. -/
theorem SeqRegs.exchangeEnd_effect (r : SeqRegs) (slot : Slot) (s : State) : AdvanceEffect s (r.exchangeEnd slot s) := by
  have ho : (s.line.record s.params slot r.level).owOe = s.line.owOe := by cases slot <;> rfl
  unfold SeqRegs.exchangeEnd
  simp only
  split
  · obtain ⟨h1, h2, h3, h4, h5⟩ := SeqRegs.advance_effect { r with slot := none, settle := 0 }
      (s.onLine fun l => l.record s.params slot r.level)
    exact ⟨h1, h2, h3, h4, fun hn h hok he => h5 hn (ho.trans h) hok he⟩
  · refine AdvanceEffect.runs rfl rfl rfl rfl id id fun h => ?_
    show (!(s.line.record s.params slot r.level).owOe) = true
    rw [ho, h]
    rfl

theorem SeqRegs.tick_timer (r : SeqRegs) (s : State) {k : Nat} (h : r.timer = k + 1) :
    r.tick s = s.runs { r with timer := k } := by
  simp only [SeqRegs.tick, h]

theorem SeqRegs.tick_op (r : SeqRegs) (s : State) {op : MicroOp} {ops : List MicroOp} (h : r.timer = 0)
    (ho : r.ops = op :: ops) :
    r.tick s =
      ({ s with line := (Line.microOp (r.slot.getD .read) op (r.level, s.line)).2 }).runs { r with
        ops := ops
        timer := op.ticks
        level := (Line.microOp (r.slot.getD .read) op (r.level, s.line)).1 } := by
  simp only [SeqRegs.tick, h, ho]

theorem SeqRegs.tick_exchangeEnd (r : SeqRegs) (s : State) {slot : Slot} (h : r.timer = 0) (ho : r.ops = [])
    (hs : r.slot = some slot) : r.tick s = r.exchangeEnd slot s := by
  simp only [SeqRegs.tick, h, ho, hs]

theorem SeqRegs.tick_advance (r : SeqRegs) (s : State) (h : r.timer = 0) (ho : r.ops = []) (hs : r.slot = none) :
    r.tick s = r.advance s := by
  simp only [SeqRegs.tick, h, ho, hs]

/-- What one tick keeps. -/
structure TickEffect (s t : State) : Prop where
  fault : t.flags.fault = s.flags.fault
  hostQ : t.hostQ = s.hostQ
  hostWait : t.hostWait = s.hostWait
  rstIn : t.rstIn = s.rstIn
  inv : s.Inv → t.Inv

/-- A command runs only out of reset. -/
theorem State.Inv.rstIn_of_run {s : State} {r : SeqRegs} (h : s.Inv) (hr : s.seq = .run r) : s.rstIn = false := by
  cases hs : s.rstIn with
  | false => rfl
  | true =>
    have hi := (h.held hs).idle
    rw [hr] at hi
    cases hi

theorem SeqRegs.tick_effect (r : SeqRegs) (s : State) (hr : s.seq = .run r) : TickEffect s (r.tick s) := by
  have start : s.Inv → endsReleased s.line.owOe r.ops = true ∧ s.flags.ok = false ∧ s.err = .none := by
    intro h
    have := h.seq
    unfold State.seqInv at this
    rwa [hr] at this
  cases ht : r.timer with
  | succ k =>
    rw [SeqRegs.tick_timer r s ht]
    exact ⟨rfl, rfl, rfl, rfl, fun h => ⟨start h, h.okNoError, h.notMalformed, notHeld (h.rstIn_of_run hr)⟩⟩
  | zero =>
    cases ho : r.ops with
    | cons op ops =>
      rw [SeqRegs.tick_op r s ht ho]
      refine ⟨rfl, rfl, rfl, rfl, fun h =>
        ⟨⟨?_, (start h).2⟩, h.okNoError, h.notMalformed, notHeld (h.rstIn_of_run hr)⟩⟩
      have h1 := (start h).1
      rw [ho] at h1
      exact endsReleased_microOp op ops _ (r.level, s.line) h1
    | nil =>
      have e : AdvanceEffect s (r.tick s) := by
        cases hs : r.slot with
        | none =>
          rw [SeqRegs.tick_advance r s ht ho hs]
          exact SeqRegs.advance_effect r s
        | some slot =>
          rw [SeqRegs.tick_exchangeEnd r s ht ho hs]
          exact SeqRegs.exchangeEnd_effect r slot s
      refine ⟨e.fault, e.hostQ, e.hostWait, e.rstIn, fun h => ?_⟩
      have h3 := (start h).1
      rw [ho] at h3
      exact e.inv (h.rstIn_of_run hr) (by simpa [endsReleased] using h3) (start h).2.1 (start h).2.2

theorem State.tick_effect (s : State) : TickEffect s s.tick := by
  unfold State.tick
  split
  · exact ⟨rfl, rfl, rfl, rfl, id⟩
  · exact SeqRegs.tick_effect _ s (by assumption)

/-- Out of reset the invariant reads four things only. -/
theorem State.Inv.of_fields {s t : State} (h : s.Inv) (h1 : t.seq = s.seq) (h2 : t.line.owOe = s.line.owOe)
    (h3 : t.flags.ok = s.flags.ok) (h4 : t.err = s.err) (h5 : t.rstIn = false) : t.Inv := by
  obtain ⟨a, b, c, -⟩ := h
  refine ⟨?_, by rw [h3, h4]; exact b, by rw [h4]; exact c, notHeld h5⟩
  unfold State.seqInv at a ⊢
  rw [h1, h2, h3, h4]
  exact a

/-! ## Hardware reset -/

/-- 10_state.md R34: a state whose registers and sequencer are the reset ones reads 0x00 everywhere. -/
theorem State.reset_registers (r : RegName) : State.reset.reg r = 0x00 := by
  have zeros : ∀ k, (#v[0, 0, 0, 0, 0, 0, 0, 0] : Address).getD k 0 = 0 := by
    intro k
    by_cases hk : k < 8
    · interval_cases k <;> rfl
    · exact getD_of_ge _ (Nat.le_of_not_lt hk)
  cases r with
  | romNo k => exact zeros k
  | addr k => exact zeros k
  | sp k =>
    show (#v[0, 0, 0, 0, 0, 0, 0, 0, 0] : Pad).getD k 0 = 0
    by_cases hk : k < 9
    · interval_cases k <;> rfl
    · exact getD_of_ge _ (Nat.le_of_not_lt hk)
  | _ => rfl

/-- Hardware reset clears the block, whatever then happens at the reset input, the line and the queue. -/
theorem State.hwReset_cleared (s : State) (b : Bool) (w : Option Nat) (q : List PortEvent) (l : Line) (h : l.owOe = false) :
    State.Cleared { s.hwReset with rstIn := b, hostWait := w, hostQ := q, line := l } where
  registers a := by
    unfold State.readReg
    cases regAt a with
    | none => rfl
    | some r =>
      cases r with
      | romNo k => exact State.reset_registers (.romNo k)
      | addr k => exact State.reset_registers (.addr k)
      | sp k => exact State.reset_registers (.sp k)
      | status => exact (by decide : bitsByte [false, false, false, false, false, false, false, false] = 0x00)
      | _ => rfl
  released := h
  idle := rfl

theorem State.hwReset_inv (s : State) (b : Bool) (w : Option Nat) (q : List PortEvent) (l : Line) (h : l.owOe = false) :
    State.Inv { s.hwReset with rstIn := b, hostWait := w, hostQ := q, line := l } where
  seq := h
  okNoError _ := rfl
  notMalformed := ErrCode.noConfusion
  held _ := s.hwReset_cleared b w q l h

/-- Everything a step does to a block held in reset (70_reset_and_hazards.md R190). -/
theorem heldStep_spec (s : State) :
    ∃ (b : Bool) (w : Option Nat) (q : List PortEvent) (l : Line),
      heldStep s = { s.hwReset with rstIn := b, hostWait := w, hostQ := q, line := l } ∧ l.owOe = false ∧
        l.trace = s.line.trace := by
  unfold heldStep
  split
  · exact ⟨_, _, _, _, rfl, rfl, rfl⟩
  · unfold heldEvent
    split <;> exact ⟨_, _, _, _, rfl, rfl, rfl⟩

end Sys2Proof.Machine
end

