-- ==== Sys2Proof/Laws/Ticks.lean ====
section
/-! SUPPORT. A whole exchange in ticks: the micro-operations of a slot, run one microsecond at a time, do what the exchange of
the line driver does at once (40_signal_primitives.md R95, 41_transport.md R100 to R103). -/

namespace Sys2Proof.Machine

theorem State.ticks_add (j k : Nat) (s : State) : State.ticks (j + k) s = State.ticks k (State.ticks j s) := by
  induction j generalizing s with
  | zero => rw [Nat.zero_add]; rfl
  | succ j ih => rw [Nat.succ_add]; exact ih s.tick

@[simp] theorem State.runs_runs (r r' : SeqRegs) (s : State) : (s.runs r).runs r' = s.runs r' := rfl

theorem State.tick_runs (r : SeqRegs) (s : State) : (s.runs r).tick = r.tick (s.runs r) := rfl

/-- The down-counter of DELAY (40_signal_primitives.md R93). -/
theorem State.ticks_timer (r : SeqRegs) (s : State) : State.ticks r.timer (s.runs r) = s.runs { r with timer := 0 } := by
  generalize h : r.timer = k
  induction k generalizing r with
  | zero =>
    obtain ⟨_, _, _, _, _, _, _, _, _, _, timer, _, _, _⟩ := r
    cases (h : timer = 0)
    rfl
  | succ k ih =>
    show State.ticks k (s.runs r).tick = _
    rw [State.tick_runs, SeqRegs.tick_timer r _ h, State.runs_runs]
    exact ih { r with timer := k } rfl

/-- Micro-operations in order. -/
theorem State.ticks_ops (ops : List MicroOp) (r : SeqRegs) (s : State) (ht : r.timer = 0) (ho : r.ops = ops) :
    ∃ k, State.ticks k (s.runs r) =
      ({ s with
          line := (ops.foldl (fun x op => Line.microOp (r.slot.getD .read) op x) (r.level, s.line)).2 }).runs { r with
        ops := []
        level := (ops.foldl (fun x op => Line.microOp (r.slot.getD .read) op x) (r.level, s.line)).1 } := by
  induction ops generalizing r s with
  | nil =>
    obtain ⟨_, _, _, _, _, _, _, _, _, _, _, _, rops, _⟩ := r
    cases (ho : rops = [])
    exact ⟨0, rfl⟩
  | cons op ops ih =>
    generalize hx : Line.microOp (r.slot.getD .read) op (r.level, s.line) = x
    obtain ⟨k, hk⟩ := ih { r with ops := ops, timer := 0, level := x.1 } { s with line := x.2 } rfl rfl
    refine ⟨1 + (op.ticks + k), ?_⟩
    rw [State.ticks_add, State.ticks_add]
    have h1 : State.ticks 1 (s.runs r) =
        ({ s with line := x.2 }).runs { r with ops := ops, timer := op.ticks, level := x.1 } := by
      show (s.runs r).tick = _
      rw [State.tick_runs, SeqRegs.tick_op r (s.runs r) ht ho, State.runs_line, hx]
      rfl
    rw [h1]
    have h2 := State.ticks_timer { r with ops := ops, timer := op.ticks, level := x.1 } { s with line := x.2 }
    rw [h2, hk]
    simp only [List.foldl_cons, hx, ht]

/-- One exchange, made before its settle DELAY begins, and then the next position of the command. -/
theorem State.ticks_exchange (slot : Slot) (r : SeqRegs) (s : State) (ht : r.timer = 0) (hs : r.slot = some slot)
    (ho : r.ops = slot.ops s.params.dur) (hl : r.level = true) :
    ∃ (k : Nat) (q : Seq), State.ticks k (s.runs r) =
      SeqRegs.advance
        { r with ops := [], slot := none, settle := 0, level := (s.line.exchange s.params slot).1 }
        { s with line := (s.line.exchange s.params slot).2.delay r.settle, seq := q } := by
  obtain ⟨k, hk⟩ := State.ticks_ops _ r s ht ho
  rw [hs, hl] at hk
  generalize hx : (slot.ops s.params.dur).foldl (fun x op => Line.microOp slot op x) (true, s.line) = x at hk
  have he : s.line.exchange s.params slot = (x.1, x.2.record s.params slot x.1) := by
    unfold Line.exchange
    rw [hx]
  simp only [Option.getD_some, hx] at hk
  have hend : State.ticks (k + 1) (s.runs r) =
      SeqRegs.exchangeEnd { r with ops := [], slot := some slot, level := x.1 } slot
        (({ s with line := x.2 }).runs { r with ops := [], slot := some slot, level := x.1 }) := by
    rw [State.ticks_add, hk]
    show (State.runs _ _).tick = _
    rw [State.tick_runs, SeqRegs.tick_exchangeEnd _ _ (by exact ht) rfl rfl]
  rw [he]
  by_cases hz : r.settle = 0
  · refine ⟨k + 1, .run { r with ops := [], slot := some slot, level := x.1 }, ?_⟩
    rw [hend]
    simp only [SeqRegs.exchangeEnd, hz, if_true]
    rfl
  · let r' : SeqRegs := { r with ops := [.delay r.settle], slot := none, settle := 0, level := x.1 }
    let s' : State := { s with line := x.2.record s.params slot x.1 }
    obtain ⟨j, hj⟩ := State.ticks_ops [.delay r.settle] r' s' ht rfl
    refine ⟨k + 1 + (j + 1), .run { r' with ops := [] }, ?_⟩
    rw [State.ticks_add, hend]
    have hgo : SeqRegs.exchangeEnd { r with ops := [], slot := some slot, level := x.1 } slot
        (({ s with line := x.2 }).runs { r with ops := [], slot := some slot, level := x.1 }) = s'.runs r' := by
      simp only [SeqRegs.exchangeEnd, hz, if_false]
      rfl
    rw [hgo, State.ticks_add, hj]
    show (State.runs _ _).tick = _
    rw [State.tick_runs, SeqRegs.tick_advance _ _ (by exact ht) rfl rfl]
    rfl

end Sys2Proof.Machine
end

