-- ==== Sys2Proof/Laws/Traverse.lean ====
section
/-! SUPPORT. Everything the search loop does (44_search.md R127, R130, R131): the positions it goes through, what it reads,
writes and stores at each, and the two records of zeros taken at a discrepancy. -/

namespace Sys2Proof.Machine

/-- A zero taken at a discrepancy, at position `j + 1`, in terms of the answers and the bits stored. -/
def zeroAt (ans : Nat → Bool × Bool) (R : Address) (j : Nat) : Bool :=
  decide (ans (j + 1) = (false, false) ∧ abit R (j + 1) = false)

/-- The last position of a list of positions counted from 0, counted from 1; `d` when there is none. -/
def lastPosition (d : Nat) (l : List Nat) : Nat := (l.getLast?.map (· + 1)).getD d

theorem lastPosition_cons (d j : Nat) (l : List Nat) : lastPosition d (j :: l) = lastPosition (j + 1) l := by
  unfold lastPosition
  rw [List.getLast?_cons]
  cases l.getLast? <;> rfl

theorem lastPosition_filter_cons (d j : Nat) (l : List Nat) (f : Nat → Bool) :
    lastPosition d ((j :: l).filter f) = lastPosition (if f j then j + 1 else d) (l.filter f) := by
  cases h : f j
  · simp [h]
  · simp [h, lastPosition_cons]

theorem filter_zeroAt_congr {ans ans' : Nat → Bool × Bool} {R : Address} {l : List Nat}
    (h : ∀ j ∈ l, ans (j + 1) = ans' (j + 1)) : l.filter (zeroAt ans R) = l.filter (zeroAt ans' R) :=
  List.filter_congr fun j hj => by unfold zeroAt; rw [h j hj]

/-- The trace of the positions of a list, counted from 0. -/
def positionsTrace (ans : Nat → Bool × Bool) (R : Address) (l : List Nat) : List Exchange :=
  l.flatMap fun j => positionTrace (ans (j + 1)).1 (ans (j + 1)).2 (abit R (j + 1))

theorem positionsTrace_congr {ans ans' : Nat → Bool × Bool} {R : Address} {l : List Nat}
    (h : ∀ j ∈ l, ans (j + 1) = ans' (j + 1)) : positionsTrace ans R l = positionsTrace ans' R l := by
  unfold positionsTrace
  simp only [List.flatMap]
  congr 1
  exact List.map_congr_left fun j hj => by rw [h j hj]

theorem State.traverse_spec (k : Nat) (hk : k ≤ 64) (lastZero : BitVec 7) (s : State) (ho : s.line.owOe = false) :
    ∃ (ans : Nat → Bool × Bool) (m : Nat) (v : BitVec 4) (R : Address) (l : Line),
      64 - k ≤ m ∧ m ≤ 64 ∧
      State.traverse k lastZero s =
        (if m = 64 then
            some (BitVec.ofNat 7 (lastPosition lastZero.toNat ((List.range' (64 - k) k).filter (zeroAt ans R))))
          else none,
          { s with lfd := v, romNo := R, line := l }) ∧
      l.owOe = false ∧
      l.trace = s.line.trace ++ positionsTrace ans R (List.range' (64 - k) (m - (64 - k))) ++
        (if m = 64 then [] else [.read true, .read true]) ∧
      (∀ n, 64 - k < n → n ≤ m → ans n ≠ (true, true) ∧
        abit R n =
          if (ans n).1 ≠ (ans n).2 then (ans n).1
          else if n < s.ld.toNat then abit s.romNo n
          else decide (n = s.ld.toNat)) ∧
      (∀ n, 1 ≤ n → n ≤ 64 → n ≤ 64 - k ∨ m < n → abit R n = abit s.romNo n) ∧
      (m = 64 → v.toNat =
        lastPosition s.lfd.toNat ((List.range' (64 - k) (8 - (64 - k))).filter (zeroAt ans R))) := by
  induction k generalizing lastZero s with
  | zero =>
    refine ⟨fun _ => (true, true), 64, s.lfd, s.romNo, s.line, Nat.le_refl _, Nat.le_refl _, ?_, ho, ?_, ?_, ?_, ?_⟩
    · simp [State.traverse, lastPosition]
    · simp [positionsTrace]
    · intro n h1 h2; omega
    · intro n _ _ _; rfl
    · intro _; simp [lastPosition]
  | succ k ih =>
    have hn : 64 - (k + 1) + 1 = 64 - k := by omega
    generalize ha : s.line.bus.read.1 = a
    generalize hb : (s.line.readBit s.params).2.bus.read.1 = b
    have htr : ((s.line.readBit s.params).2.readBit s.params).2.trace = s.line.trace ++ [.read a, .read b] := by
      rw [Line.readBit_eq, hb, Line.readBit_eq, ha]
      simp
    cases hab : a && b with
    | true =>
      simp only [Bool.and_eq_true] at hab
      obtain ⟨rfl, rfl⟩ := hab
      rw [State.traverse_abort s k lastZero ha hb]
      refine ⟨fun _ => (true, true), 64 - (k + 1), s.lfd, s.romNo, _, Nat.le_refl _, by omega, ?_,
        Line.readBit_owOe s.params (s.line.readBit s.params).2, ?_, ?_, ?_, ?_⟩
      · rw [if_neg (by omega)]
      · rw [htr, if_neg (by omega)]
        simp [positionsTrace]
      · intro n h1 h2; omega
      · intro n _ _ _; rfl
      · intro h; omega
    | false =>
      generalize hd : s.direction (64 - k) a b = d
      have hstep := State.traverse_step s k lastZero ha.symm hb.symm rfl hab
      rw [hd] at hstep
      generalize hs' : ({ s with
          lfd := if s.zeroTaken (64 - k) a b && decide (64 - k < 9) then BitVec.ofNat 4 (64 - k) else s.lfd
          romNo := setAbit s.romNo (64 - k) d
          line := ((s.line.readBit s.params).2.readBit s.params).2.writeBit s.params d } : State) = s' at hstep
      have e1 : s'.ld = s.ld := by rw [← hs']
      have e2 : s'.romNo = setAbit s.romNo (64 - k) d := by rw [← hs']
      have e3 : s'.line.trace = s.line.trace ++ positionTrace a b d := by
        rw [← hs', Line.writeBit_trace, htr]
        simp [positionTrace]
      have e4 : s'.lfd = if s.zeroTaken (64 - k) a b && decide (64 - k < 9) then BitVec.ofNat 4 (64 - k) else s.lfd := by
        rw [← hs']
      obtain ⟨ans, m, v, R, l, h1, h2, h3, h4, h5, h6, h7, h8⟩ := ih (by omega) (s.lastZeroAt (64 - k) a b lastZero) s'
        (by rw [← hs']; exact Line.writeBit_owOe _ _ _)
      have hR : abit R (64 - k) = d := by
        rw [h7 _ (by omega) (by omega) (.inl (Nat.le_refl _)), e2,
          abit_setAbit _ _ (by omega) (by omega) (by omega) (by omega), if_pos rfl]
      generalize hans : (fun j => if j = 64 - k then (a, b) else ans j) = ans₁
      have an1 : ans₁ (64 - k) = (a, b) := by rw [← hans]; simp
      have an2 : ∀ j, j ≠ 64 - k → ans₁ j = ans j := fun j hj => by rw [← hans]; simp [hj]
      have an3 : ∀ c : Nat, ∀ j ∈ List.range' (64 - k) c, ans₁ (j + 1) = ans (j + 1) := by
        intro c j hj
        have := List.mem_range'_1.mp hj
        exact an2 _ (by omega)
      have hz : zeroAt ans₁ R (64 - (k + 1)) = s.zeroTaken (64 - k) a b := by
        unfold zeroAt State.zeroTaken
        rw [hn, an1, hR, hd]
        revert hab
        cases a <;> cases b <;> cases d <;> decide
      have hr : ∀ c, List.range' (64 - (k + 1)) (c + 1) = (64 - (k + 1)) :: List.range' (64 - k) c := by
        intro c; rw [List.range'_succ, hn]
      refine ⟨ans₁, m, v, R, l, by omega, h2, ?_, h4, ?_, ?_, ?_, ?_⟩
      · rw [hstep, h3, hr, lastPosition_filter_cons, hz, filter_zeroAt_congr (an3 k), ← hs']
        unfold State.lastZeroAt
        congr 3
        split
        · rw [BitVec.toNat_ofNat, Nat.mod_eq_of_lt (by omega), hn]
        · rfl
      · have hm : m - (64 - (k + 1)) = m - (64 - k) + 1 := by omega
        rw [h5, e3, hm, hr]
        have hp : positionsTrace ans₁ R ((64 - (k + 1)) :: List.range' (64 - k) (m - (64 - k))) =
            positionTrace a b d ++ positionsTrace ans R (List.range' (64 - k) (m - (64 - k))) := by
          rw [← positionsTrace_congr (an3 _)]
          show positionTrace _ _ _ ++ _ = _
          rw [hn, an1, hR]
          rfl
        rw [hp]
        simp only [List.append_assoc]
      · intro n hn1 hn2
        by_cases hc : n = 64 - k
        · subst hc
          rw [an1, hR, ← hd]
          refine ⟨fun h => ?_, ?_⟩
          · injection h with h h'
            rw [h, h'] at hab
            cases hab
          · unfold State.direction
            cases a <;> cases b <;> rfl
        · have := h6 n (by omega) hn2
          rw [an2 n hc, ← e1]
          refine ⟨this.1, ?_⟩
          have hs : abit (setAbit s.romNo (64 - k) d) n = abit s.romNo n := by
            rw [abit_setAbit _ _ (by omega) (by omega) (by omega) (by omega), if_neg (Ne.symm hc)]
          rw [this.2, e2, hs]
      · intro n hn1 hn2 hn3
        rw [h7 n hn1 hn2 (by omega), e2, abit_setAbit _ _ (by omega) (by omega) (by omega) (by omega)]
        rw [if_neg (by omega)]
      · intro hm
        rw [h8 hm, e4]
        by_cases h9 : 64 - k < 9
        · have hc : 8 - (64 - (k + 1)) = 8 - (64 - k) + 1 := by omega
          rw [hc, hr, lastPosition_filter_cons, hz, filter_zeroAt_congr (an3 _)]
          congr 1
          simp only [h9, decide_true, Bool.and_true]
          split
          · rw [BitVec.toNat_ofNat, Nat.mod_eq_of_lt (by omega), hn]
          · rfl
        · have hc : 8 - (64 - (k + 1)) = 0 := by omega
          have hc' : 8 - (64 - k) = 0 := by omega
          rw [hc, hc']
          simp [h9]

end Sys2Proof.Machine
end

