-- ==== Sys2Proof/Tests/Slice0.lean ====
section
/-! SUPPORT. Tests: ill-formed terms refused, every command's byte decoded, vectors of 95_test_vectors.md (their identifiers
stand in the names or comments), and one witness for the hypotheses of each obligation. -/

namespace Sys2Proof.Tests

open Sys2Proof.Machine

/-! ## Small states -/

/-- A block at reset on a bus whose answers are the list's. -/
def onScript (bits : List Bool) : State := { State.reset with line := { Line.released with bus := .free bits 0 } }

/-- A block at reset on a reference bus. -/
def onDevices (ds : List Device) : State := { State.reset with line := { Line.released with bus := .devices ds } }

/-- The state in which a command ends. -/
def after (i : Instr) (s : State) : State := computed i s

/-- The state a step answers. -/
def next (s : State) : State :=
  match step s with
  | .next t => t
  | .fault _ => s
  | .refused _ => s

/-- The block at reset with one event pending, from a host that waits. -/
def withEvent (op : PortOp) : State := { State.reset with hostQ := [⟨op, none⟩] }

/-- The block held in reset with one event pending. -/
def heldWith (op : PortOp) : State := { State.reset with rstIn := true, hostQ := [⟨op, none⟩] }

/-- WRITE_BIT has just been launched and an event is due. -/
def busyWith (op : PortOp) : State := { State.reset.begin .writeBit with hostQ := [⟨op, none⟩], hostWait := some 0 }

/-- 95_test_vectors.md, address A. -/
def addressA : Address := #v[0x28, 0xB1, 0x00, 0x56, 0xB5, 0x01, 0x3C, 0xAF]

/-- 95_test_vectors.md, the scratchpad of every device (G11). -/
def padA : Pad := #v[0x50, 0x05, 0x4B, 0x46, 0x7F, 0xFF, 0x0C, 0x10, 0x1C]

def deviceA : Device where
  rom := addressA
  sp := padA
  alarm := false
  mode := .idle

/-- A block at reset on the bus {A}, ADDR = A. -/
def atA : State := { onDevices [deviceA] with addr := addressA }

/-! ## WellFormed -/

theorem test_romNo_8_is_no_register : (RegName.romNo 8).wf = false := by decide
theorem test_addr_8_is_no_register : (RegName.addr 8).wf = false := by decide
theorem test_sp_9_is_no_register : (RegName.sp 9).wf = false := by decide
theorem test_wr_of_nine_bits : (Stmt.wr .data 256).wf = false := by decide
theorem test_wr_of_no_register : (Stmt.wr (.sp 9) 0).wf = false := by decide
theorem test_rd_of_no_register : (Stmt.rd (.addr 8)).wf = false := by decide
theorem test_ldaddr_of_15_digits : (Stmt.ldaddr (List.replicate 15 '0')).wf = false := by decide
theorem test_equal_patterns : Params.wf { Params.nominal with cfg10 := 0x1F } = false := by decide
theorem test_nominal_params_wf : Params.nominal.wf = true := by decide

/-! ## Decoding: the opcode map of 30_encoding.md R75, bit by bit -/

theorem test_decode_writeBit : decode [0b00000001] = .ok (.writeBit, []) := by decide
theorem test_decode_readBit : decode [0b00000010] = .ok (.readBit, []) := by decide
theorem test_decode_writeByte : decode [0b00000011] = .ok (.writeByte, []) := by decide
theorem test_decode_readByte : decode [0b00000100] = .ok (.readByte, []) := by decide
theorem test_decode_busReset : decode [0b00000101] = .ok (.busReset, []) := by decide
theorem test_decode_crcInit : decode [0b00000110] = .ok (.crcInit, []) := by decide
theorem test_decode_crcByte : decode [0b00000111] = .ok (.crcByte, []) := by decide
theorem test_decode_checkAddr : decode [0b00001000] = .ok (.checkAddr, []) := by decide
theorem test_decode_checkSp : decode [0b00001001] = .ok (.checkSp, []) := by decide
theorem test_decode_searchReset : decode [0b00001010] = .ok (.searchReset, []) := by decide
theorem test_decode_searchRom : decode [0b00001011] = .ok (.searchRom, []) := by decide
theorem test_decode_searchAlarm : decode [0b00001100] = .ok (.searchAlarm, []) := by decide
theorem test_decode_readScratchpad : decode [0b00001101] = .ok (.readScratchpad, []) := by decide
theorem test_decode_writeScratchpad : decode [0b00001110] = .ok (.writeScratchpad, []) := by decide
theorem test_decode_isConnected : decode [0b00001111] = .ok (.isConnected, []) := by decide
theorem test_decode_setResolution : decode [0b00010000] = .ok (.setResolution, []) := by decide
theorem test_decode_reserved_00 : decode [0b00000000] = .error (.reservedOpcode 0x00) := by decide
theorem test_decode_reserved_11 : decode [0b00010001] = .error (.reservedOpcode 0x11) := by decide
theorem test_decode_reserved_FF : decode [0b11111111] = .error (.reservedOpcode 0xFF) := by decide
theorem test_decode_empty : decode [] = .error .empty := by decide
/-- The first step after reset of the host's placement runs the command: T1 with `DATA = 0`. -/
theorem test_fetch : (next (State.reset.withFetchWord 8 0x01)).line.trace = [.write false] := by decide

/-! ## Transport and presence -/

theorem test_T2 : (after .writeBit { State.reset with data := 0xFE }).line.trace = [.write false] := by decide
theorem test_T4 : (after .readBit { onScript [false] with data := 0xFF }).data = 0x00 := by decide
theorem test_T5 : (after .writeByte { State.reset with data := 0xA5 }).line.trace =
    [.write true, .write false, .write true, .write false, .write false, .write true, .write false, .write true] := by
  decide
theorem test_T5_time : (after .writeByte { State.reset with data := 0xA5 }).line.elapsed = 660 := by decide
theorem test_T7 : (after .readByte (onScript [true, false, true, true, false, false, true, false])).data = 0x4D := by decide
theorem test_T8 : (after .readByte { onDevices [] with data := 0xA5 }).data = 0xFF := by decide
/-- T9: a launch clears the results of an earlier command. -/
theorem test_T9 : (after .writeBit
    { State.reset with flags := ⟨true, true, true, true, false⟩ }).status = 0x04 := by decide
theorem test_T10 : (after .busReset (onDevices [deviceA])).status = 0x06 := by decide
theorem test_T12 : (after .busReset (onDevices [])).status = 0x00 ∧ (after .busReset (onDevices [])).err = .busAbsent := by
  decide

/-! ## CRC -/

theorem test_T24 : crc8Step 0x00 0x28 = 0xE1 := by decide
theorem test_T25 : crc8Step 0xE1 0xB1 = 0xDB := by decide
set_option maxRecDepth 20000 in
theorem test_T31 : crc8 [0x31, 0x32, 0x33, 0x34, 0x35, 0x36, 0x37, 0x38, 0x39] = 0xA1 := by decide
theorem test_crcInit : (after .crcInit { State.reset with crc := 0x5A }).crc = 0x00 := by decide
theorem test_crcByte : (after .crcByte { State.reset with crc := 0xE1, data := 0xB1 }).crc = 0xDB := by decide
theorem test_T32 : (after .checkAddr { State.reset with addr := addressA }).status = 0x0C := by decide
/-- T33. -/
theorem test_T33 : (after .checkAddr
    { State.reset with addr := #v[0x28, 0xB1, 0x00, 0x46, 0xB5, 0x01, 0x3C, 0xAF] }).crc = 0x97 := by decide
set_option maxRecDepth 20000 in
theorem test_T36 : (after .checkSp { State.reset with sp := padA.setIfInBounds 8 0x1D }).status = 0x10 := by decide
set_option maxRecDepth 20000 in
theorem test_T37 : (after .checkSp State.reset).status = 0x08 ∧ (after .checkSp State.reset).err = .integrityFailure := by
  decide

/-! ## Search -/

theorem test_searchReset : (after .searchReset { State.reset with ld := 13, lfd := 4, ldf := true }).status = 0x04 := by decide

/-- T45: the answers that abort a search at position 5. -/
def t45 : State :=
  { onScript ([true] ++ [false, true, false, true, false, true, false, true] ++ [true, true]) with
    romNo := #v[0xFF, 0xFF, 0xFF, 0xFF, 0xFF, 0xFF, 0xFF, 0xFF]
    ld := 20
    lfd := 3 }

theorem test_T45_romNo : (after .searchRom t45).romNo = #v[0xF0, 0xFF, 0xFF, 0xFF, 0xFF, 0xFF, 0xFF, 0xFF] := by decide
theorem test_T45_trace : (after .searchRom t45).line.trace.length = 23 := by decide
/-- T44 on the bus {A}. -/
theorem test_T44 : (after .searchAlarm (onDevices [deviceA])).line.trace =
    [.reset true, .write false, .write false, .write true, .write true, .write false, .write true, .write true,
     .write true, .read true, .read true] := by decide
set_option maxRecDepth 20000 in
theorem test_T40 : (after .searchRom (onDevices [deviceA])).romNo = addressA := by decide
set_option maxRecDepth 20000 in
/-- T46 on the bus {A}, A alarmed. -/
theorem test_T46 : (after .searchAlarm (onDevices [{ deviceA with alarm := true }])).status = 0x06 := by decide

/-! ## Scratchpad -/

set_option maxRecDepth 20000 in
theorem test_T51 : (after .readScratchpad atA).sp = padA := by decide
set_option maxRecDepth 20000 in
theorem test_T51_connected : (after .isConnected atA).status = 0x1E := by decide
set_option maxRecDepth 20000 in
/-- T54: the devices on the bus after the write. -/
theorem test_T54 : (after .writeScratchpad { atA with wth := 0x1E, wtl := 0xF6, wcfg := 0x5F }).line.bus =
    .devices [{ deviceA with
      sp := #v[0x50, 0x05, 0x1E, 0xF6, 0x5F, 0xFF, 0x0C, 0x10, 0xE6]
      mode := .romCmd [] }] := by decide
set_option maxRecDepth 20000 in
/-- T52 on the bus {A}: the pattern changes, the write-back runs. -/
theorem test_T52 : (after .setResolution { atA with data := 10 }).line.bus =
    .devices [{ deviceA with
      sp := #v[0x50, 0x05, 0x4B, 0x46, 0x3F, 0xFF, 0x0C, 0x10, 0xFC]
      mode := .romCmd [] }] := by decide
set_option maxRecDepth 20000 in
/-- T58: the CRC is wrong, no write-back. -/
theorem test_T58 : (after .setResolution
    { onDevices [{ deviceA with sp := padA.setIfInBounds 8 0x1D }] with addr := addressA }).status = 0x12 := by decide

/-! ## The host port -/

theorem test_T60 : (next (withEvent (.write 0x00 0x00))).status = 0x80 := by decide
theorem test_T65 : (next (busyWith (.write 0x03 0x55))).status = 0x81 := by decide
theorem test_T67 : (next (withEvent (.write 0x05 0xFF))).readReg 0x05 = 0x7F := by decide
theorem test_T68 : (next (withEvent (.read 0x3F))).rdata = 0x00 := by decide

/-- STATUS with every stored flag but OK and NONZERO set (10_state.md R17: bits 1, 3 and 7). -/
theorem test_status_layout : ({ State.reset with flags := ⟨true, false, true, false, true⟩ } : State).readReg 0x01 = 0x8A := by
  decide
/-- 60_exceptions.md R170. -/
theorem test_error_codes : ([.none, .busAbsent, .searchAborted, .integrityFailure, .malformedInput, .illegalCommand].map
    fun e => ({ State.reset with err := e } : State).readReg 0x02) = [0, 1, 2, 3, 4, 5] := by decide
/-- 70_reset_and_hazards.md R190: while the reset input is asserted a host write does not stick, and is no fault. -/
theorem test_held_write : (next (heldWith (.write 0x03 0x55))).readReg 0x03 = 0x00 ∧
    (next (heldWith (.write 0x00 0x00))).readReg 0x01 = 0x00 := by decide
/-- A command written while the reset input is asserted is not launched; its release alone ends the reset. -/
theorem test_held_launch : (next (heldWith (.write 0x00 0x05))).line.trace = [] ∧
    (next (heldWith (.write 0x00 0x05))).rstIn = true ∧ (next (heldWith (.resetInput false))).rstIn = false := by decide

/-! ## Host arithmetic -/

/-- T70 (V8). -/
theorem test_T70 : rawTemperature 0x50 0x05 = some 10880 := by decide
theorem test_T76 : rawTemperature 0x91 0xFC = some (-7032) := by decide
theorem test_T77 : rawTemperature 0x90 0xFC = none := by decide
/-- V8 and T70: 85.0 and 185.0. -/
theorem test_T70_degrees : celsius 10880 = 85 ∧ fahrenheit 10880 = 185 := by
  constructor <;> norm_num [celsius, fahrenheit]
/-- V7. -/
theorem test_V7 : parseAddress ['2', '8', 'b', '1', '0', '0', '5', '6', 'b', '5', '0', '1', '3', 'c', 'a', 'f'] =
    some addressA := by decide
theorem test_V9 : conversionTimeout 9 = 94 ∧ conversionTimeout 10 = 188 ∧ conversionTimeout 11 = 375 ∧
    conversionTimeout 12 = 750 := by decide

/-! ## A whole command in ticks -/

/-- 70_reset_and_hazards.md R200: WRITE_BIT of a 0 takes 70 ticks of DELAY, four micro-operations and its end. -/
theorem test_writeBit_in_ticks : State.ticks 75 (State.reset.begin .writeBit) = after .writeBit State.reset := by decide

/-- Every slot takes two microseconds, a settle delay nine. -/
def quick : Durations where
  w1Low := 1
  w1Rel := 1
  w0Low := 1
  w0Rel := 1
  rLow := 1
  rWait := 1
  rPad := 0
  wByteGap := 9
  rBitGap := 9
  rstLow := 1
  rstWait := 1
  rstPad := 0

/-- WRITE_BYTE of 0x80 after its eighth slot, in the settle delay, with an event due. -/
def inTheGap (op : PortOp) : State :=
  { State.ticks 60 (({ State.reset with data := 0x80, params := { Params.nominal with dur := quick } } : State).begin
      .writeByte) with
    hostQ := [⟨op, none⟩]
    hostWait := some 0 }

set_option maxRecDepth 20000 in
/-- 41_transport.md R102: the eighth slot is made before the settle delay (log entry 12), so a reset inside it finds eight
slots in the trace. -/
theorem test_reset_in_the_gap : (inTheGap (.read 0x01)).status = 0x01 ∧
    (next (inTheGap (.resetInput true))).line.trace =
      [.write false, .write false, .write false, .write false, .write false, .write false, .write false, .write true] := by
  decide

/-! ## Witnesses: states that meet the hypotheses of the obligations -/

/-- RegisterMapIsOneToOne: the last register of the map, the last element of each array, and the first reserved address. -/
theorem witness_registerMap : (RegName.romNo 7).address = 0x0F ∧ (RegName.addr 7).address = 0x17 ∧
    (RegName.sp 8).address = 0x20 ∧ RegName.wcfg.wf = true ∧ regAt 0x23 = some .wcfg ∧ (RegName.sp 8).wf = true ∧
    regAt 0x20 = some (.sp 8) ∧ regAt 0x24 = none := by decide

theorem witness_stepRuns : (withEvent (.write 0x00 0x10)).rstIn = false ∧ (withEvent (.write 0x00 0x10)).seq = .idle ∧
    (withEvent (.write 0x00 0x10)).hostQ = ⟨.write 0x00 0x10, none⟩ :: [] ∧
    decode [0x10] = .ok (.setResolution, []) := by decide

theorem witness_launch : State.reset.rstIn = false ∧ ({ State.reset with hostQ := [⟨.write 0x00 0x01, some 3⟩] } : State).seq = .idle ∧
    decode [0x01] = .ok (.writeBit, []) := by decide

/-- LaunchLeavesTheCommandRunning, the three clauses about ticks. -/
theorem witness_running : (State.reset.begin .writeBit).seq = .run (SeqRegs.first .writeBit State.reset) ∧
    (State.reset.begin .writeBit).hostWait = none ∧
    (State.reset.begin .writeBit).rstIn = false ∧ (State.reset.begin .writeBit).hostQ = [] ∧
    ({ State.reset.begin .writeBit with hostWait := some 1 } : State).hostWait = some (0 + 1) ∧
    ({ State.reset.begin .writeBit with hostWait := some 0 } : State).hostWait = some 0 := by decide

/-- IllegalOpcodeIsRecorded at both ends of the reserved range. -/
theorem witness_illegal : (withEvent (.write 0x00 0x11)).rstIn = false ∧ (withEvent (.write 0x00 0x11)).seq = .idle ∧ 0x11 ≤ (0x11 : Byte).toNat ∧
    (0x00 : Byte).toNat = 0 ∧ 0x11 ≤ (0xFF : Byte).toNat := by decide

/-- IdleHostWriteStoresOneRegister: a stored, a read-only and a reserved address. -/
theorem witness_idleWrite : (withEvent (.write 0x23 0x7F)).rstIn = false ∧ (withEvent (.write 0x23 0x7F)).seq = .idle ∧ (0x23 : BitVec 6) ≠ 0x00 ∧ (0x01 : BitVec 6) ≠ 0x00 ∧
    (0x24 : BitVec 6) ≠ 0x00 ∧ RegName.wcfg.address = 0x23 := by decide

/-- IdleHostReadAnswersTheRegister: the two clauses meet at 0x23 and 0x24. -/
theorem witness_idleRead : (withEvent (.read 0x23)).rstIn = false ∧ (withEvent (.read 0x23)).seq = .idle ∧ RegName.wcfg.wf = true ∧ RegName.wcfg.address = 0x23 ∧
    ¬ 0x24 ≤ (0x23 : BitVec 6).toNat ∧ 0x24 ≤ (0x24 : BitVec 6).toNat := by decide

/-- BusyAccessIsTurnedAway, each clause. -/
theorem witness_busy : (busyWith (.read 0x01)).rstIn = false ∧ (busyWith (.read 0x01)).seq = .run (SeqRegs.first .writeBit State.reset) ∧
    (busyWith (.read 0x01)).hostWait = some 0 ∧
    (busyWith (.read RegName.status.address)).hostQ = ⟨.read 0x01, none⟩ :: [] ∧
    (busyWith (.read RegName.wcfg.address)).hostQ = ⟨.read 0x23, none⟩ :: [] ∧ RegName.wcfg ≠ .status ∧
    (busyWith (.write RegName.cmd.address 0x06)).hostQ = ⟨.write 0x00 0x06, none⟩ :: [] := by decide

/-- StatusLayout while idle and in the middle of a command, ErrorCodes. -/
theorem witness_readStatus : (withEvent (.read 0x01)).rstIn = false ∧ (withEvent (.read 0x01)).seq = .idle ∧
    (withEvent (.read 0x01)).hostQ = ⟨.read 0x01, none⟩ :: [] ∧ (busyWith (.read 0x01)).hostWait = some 0 ∧
    (busyWith (.read 0x01)).hostQ = ⟨.read 0x01, none⟩ :: [] ∧ (withEvent (.read 0x02)).hostQ = ⟨.read 0x02, none⟩ :: [] := by
  decide

/-- HardwareResetClearsTheBlock: while idle and in the middle of a command. -/
theorem witness_hwReset : (withEvent (.resetInput true)).rstIn = false ∧ (withEvent (.resetInput true)).seq = .idle ∧
    (withEvent (.resetInput true)).hostQ = ⟨.resetInput true, none⟩ :: [] ∧
    (busyWith (.resetInput true)).rstIn = false ∧ (busyWith (.resetInput true)).hostWait = some 0 ∧
    (busyWith (.resetInput true)).hostQ = ⟨.resetInput true, none⟩ :: [] := by decide

/-- ResetHoldsTheBlock: with a write, the release and nothing pending. -/
theorem witness_held : (heldWith (.write 0x03 0x55)).rstIn = true ∧
    (heldWith (.resetInput false)).hostQ = ⟨.resetInput false, none⟩ :: [] ∧
    ({ State.reset with rstIn := true } : State).hostQ = [] := by decide

/-- StepKeepsTheInvariant: a running command whose line is driven low. -/
theorem witness_invariant : (State.reset.begin .writeBit).tick.Inv ∧ (State.reset.begin .writeBit).tick.line.owOe = true ∧
    step (State.reset.begin .writeBit).tick = .next (State.reset.begin .writeBit).tick.tick :=
  ⟨⟨⟨rfl, rfl, rfl⟩, by decide, by decide, fun h => nomatch h⟩, by decide, rfl⟩

/-- FaultIsSticky: a state of the invariant with FAULT set. -/
theorem witness_faultIsSticky : ({ State.reset with flags := ⟨false, false, false, false, true⟩ } : State).Inv ∧
    ({ State.reset with flags := ⟨false, false, false, false, true⟩ } : State).flags.fault = true :=
  ⟨⟨rfl, by decide, by decide, fun h => nomatch h⟩, rfl⟩

/-- OnlyMisuseSetsFault: both kinds of misuse; at the first reserved address a write while busy sets no fault (log entry 6). -/
theorem witness_onlyMisuse : (withEvent (.write 0x00 0x00)).flags.fault = false ∧
    (next (withEvent (.write 0x00 0x00))).flags.fault = true ∧ (busyWith (.write 0x23 0x00)).flags.fault = false ∧
    (next (busyWith (.write 0x23 0x00))).flags.fault = true ∧
    (next (busyWith (.write 0x24 0x00))).flags.fault = false := by decide

theorem witness_serialized : (withEvent (.write 0x00 0x06)).serialized ∧ (withEvent (.write 0x00 0x06)).faultFree ∧
    decodeOpcode 0x06 = .ok .crcInit := by
  refine ⟨?_, rfl, by decide⟩
  intro e he
  cases List.mem_singleton.mp he
  rfl

/-- StaleResultsNeverMatter: stale flags that differ, FAULT alike. -/
theorem witness_stale : (⟨true, true, true, true, false⟩ : Flags).fault = State.reset.flags.fault := by decide

/-- ReadByteStoresEightAnswers, its last clause. -/
theorem witness_readByte : (onScript (byteBits 0x4D ++ [true])).line.bus = .free (byteBits 0x4D ++ [true]) 0 := by decide

/-- NoPresenceEndsTheCommand, SearchWithoutPresenceClears, ConversionWithoutDeviceEnds. -/
theorem witness_noPresence : (onDevices []).line.bus.reset.1 = false ∧ (onDevices []).ldf = false := by decide

/-- CheckAddrComparesTheLastByte: a good and a bad last byte. -/
theorem witness_checkAddr : (0xAF : Byte) = crc8 [0x28, 0xB1, 0x00, 0x56, 0xB5, 0x01, 0x3C] ∧
    true = decide ((0xAF : Byte) = addressA[7]) ∧ false = decide ((0xAF : Byte) = 0xAE) := by decide

/-- CheckSpTestsCrcAndZero: both tests passed; the CRC good of nine zeros. -/
theorem witness_checkSp : (0x1C : Byte) = crc8 [0x50, 0x05, 0x4B, 0x46, 0x7F, 0xFF, 0x0C, 0x10] ∧
    true = decide ((0x1C : Byte) = padA[8]) ∧ true = decide (∃ k : Fin 9, padA[k] ≠ 0x00) ∧
    false = decide (∃ k : Fin 9, State.reset.sp[k] ≠ 0x00) := by decide

theorem witness_crcError : (0x00 : Byte) ≠ 0x01 := by decide

theorem witness_exhausted : ({ State.reset with ldf := true } : State).ldf = true := by decide

/-- SearchFollowsTheTree, whose two outcomes test_T40 and test_T45_romNo show. -/
theorem witness_search : t45.ldf = false ∧ t45.line.bus.reset.1 = true ∧ (onDevices [deviceA]).ldf = false ∧
    (onDevices [deviceA]).line.bus.reset.1 = true ∧
    (Instr.searchRom, t45.params.cmdSearchRom) ∈
      [(Instr.searchRom, t45.params.cmdSearchRom), (Instr.searchAlarm, t45.params.cmdSearchAlarm)] := by decide

/-- SearchFindsTheOnlyDevice, EnumerateSmallBuses, EnumerationFindsEveryDevice, PresenceOnTheReferenceBus,
SilenceReadsAsOnes. -/
theorem witness_onlyDevice : (onDevices [deviceA]).line.bus = .devices [deviceA] ∧ (onDevices [deviceA]).ldf = false ∧
    ({ deviceA with alarm := true } : Device).alarm = true ∧ (onDevices []).line.bus = .devices [] ∧
    [deviceA].length ≤ 1 := by decide

theorem witness_noAlarm : (onDevices [deviceA]).line.bus = .devices [deviceA] ∧ [deviceA] ≠ [] ∧
    (∀ d ∈ [deviceA], d.alarm = false) ∧ (onDevices [deviceA]).ldf = false ∧
    Params.nominal.cmdSearchAlarm ≠ Params.nominal.cmdSearchRom := by decide

/-- ReadScratchpadStoresWhatWasRead, WriteScratchpadSendsThreeBytes, IsConnectedChecksWhatWasRead and
SetResolutionWritesBackOnChange, whose three cases test_T52, test_T58 and test_setResolution_same show. -/
theorem witness_presence : atA.line.bus.reset.1 = true := by decide

set_option maxRecDepth 20000 in
/-- The pattern asked for is already there (T52, the second time): 154 exchanges, no write-back. -/
theorem test_setResolution_same : (after .setResolution { atA with data := 12 }).line.trace.length = 154 := by decide

set_option maxRecDepth 20000 in
/-- ConnectedMeansValidScratchpad. -/
theorem witness_connected : (after .isConnected atA).flags.ok = true ∧
    (after .setResolution { atA with data := 12 }).flags.ok = true := by decide

/-- ScratchpadOfTheOnlyDeviceIsRead, ScratchpadOfTheOnlyDeviceIsWritten. -/
theorem witness_addressed : atA.line.bus = .devices [deviceA] ∧ atA.addr = deviceA.rom ∧
    atA.params.cmdMatchRom ≠ atA.params.cmdSearchRom ∧ atA.params.cmdMatchRom ≠ atA.params.cmdSearchAlarm ∧
    atA.params.cmdWriteScratchpad ≠ atA.params.cmdReadScratchpad := by decide

theorem witness_nominal : State.reset.params.dur = Durations.nominal := by decide

/-- NominalCommandTimes: a search that is aborted (at position 5, T45), one without presence, one exhausted. -/
theorem witness_searchTimes : (after .searchRom t45).line.elapsed = 1760 + 210 * 4 ∧ (after .searchRom t45).err = .searchAborted ∧ (after .searchRom (onDevices [])).err = .busAbsent ∧
    (after .searchRom { State.reset with ldf := true }).line.elapsed = 0 := by decide

set_option maxRecDepth 20000 in
/-- NominalCommandTimes, SET_RESOLUTION with the write-back (R200: 25140) and without presence at its second reset. -/
theorem witness_resolutionTimes : (after .setResolution { atA with data := 10 }).line.elapsed = 25140 ∧
    (after .setResolution { onScript (true :: padA.toList.flatMap byteBits ++ [true, false]) with data := 10 }).line.elapsed =
      15600 := by decide

/-- ConversionPollStopsAtTheFirstOne with two polls of 0 before the 1; the readings after the second may be late. -/
theorem witness_poll : (onScript (true :: (List.replicate 2 false ++ true :: []))).line.bus =
      .free (true :: (List.replicate 2 false ++ true :: [])) 0 ∧
    2 < [10, 93, 94].length ∧ ∀ m ∈ [10, 93, 94].take 2, m < conversionTimeout 9 := by decide

/-- ConversionPollTimesOut: two polls of 0, the second reading at the timeout. -/
theorem witness_timeout : (onScript (true :: (List.replicate 2 false ++ [true]))).line.bus =
      .free (true :: (List.replicate ([93].length + 1) false ++ [true])) 0 ∧
    (∀ m ∈ [93], m < conversionTimeout 9) ∧ conversionTimeout 9 ≤ 94 := by decide

/-- SentinelsTellFailureFromReadings: sentinels that R160 admits (the values of 91_not_in_source.md N23, an example only). -/
theorem witness_sentinels : SentinelsWf { disconnectedC := -127, disconnectedF := -1966 / 10 } := by
  constructor <;> norm_num [celsius, fahrenheit, Config.rawDisconnected]

/-- Ill-formed: one constant for both units, and a Celsius sentinel that is a reading (85 degrees). -/
theorem test_bad_sentinels : ¬ SentinelsWf { disconnectedC := -127, disconnectedF := -127 } ∧
    ¬ SentinelsWf { disconnectedC := 85, disconnectedF := -127 } :=
  ⟨fun h => h.distinct rfl, fun h => by
    have := h.celsiusOut
    norm_num [celsius, Config.rawDisconnected, Config.rawMax] at this⟩

set_option maxRecDepth 20000 in
/-- SentinelsTellFailureFromReadings, its clauses: a reading (V8, 10880), no device, and -55 degrees exactly (R158). -/
theorem witness_readings : (issue .isConnected atA).flags.ok = true ∧ (raw16 0x50 0x05).toInt = 10880 ∧
    (issue .isConnected atA).sp[0] = 0x50 ∧ (issue .isConnected atA).sp[1] = 0x05 ∧
    (issue .isConnected (onDevices [])).flags.ok = false ∧ (raw16 0x90 0xFC).toInt = -7040 := by decide

/-- ParseAddressReadsItsDigits, its second clause. -/
theorem witness_parse : ['0'].length ≠ 16 := by decide

end Sys2Proof.Tests
end

section
/-! SUPPORT. The register map (10_state.md R14, R29): names and addresses are each other's inverse below 0x24, what a write
while idle does to every register and what it leaves, what a read answers. -/

namespace Sys2Proof.Machine

/-! ## Names and addresses -/

/-- 10_state.md R14, R29, the whole map address by address. -/
theorem regAt_spec : ∀ a : BitVec 6,
    (∀ r ∈ regAt a, r.wf = true ∧ r.address = a ∧ a.toNat < 0x24) ∧ (regAt a = none → 0x24 ≤ a.toNat) := by
  decide

theorem regAt_some {a : BitVec 6} {r : RegName} (h : regAt a = some r) :
    r.wf = true ∧ r.address = a ∧ a.toNat < 0x24 :=
  (regAt_spec a).1 r h

theorem regAt_eq_none_iff (a : BitVec 6) : regAt a = none ↔ 0x24 ≤ a.toNat := by
  refine ⟨(regAt_spec a).2, fun ha => ?_⟩
  cases h : regAt a with
  | none => rfl
  | some r =>
    obtain ⟨-, -, hlt⟩ := regAt_some h
    omega

/-- Every register stands at its address. -/
theorem regAt_address {r : RegName} (h : r.wf = true) : regAt r.address = some r := by
  cases r with
  | romNo k =>
    have hk : k < 8 := of_decide_eq_true h
    interval_cases k <;> rfl
  | addr k =>
    have hk : k < 8 := of_decide_eq_true h
    interval_cases k <;> rfl
  | sp k =>
    have hk : k < 9 := of_decide_eq_true h
    interval_cases k <;> rfl
  | _ => rfl

theorem address_toNat_lt {r : RegName} (h : r.wf = true) : r.address.toNat < 0x24 := by
  obtain ⟨-, -, hlt⟩ := regAt_some (regAt_address h)
  exact hlt

/-- Two registers have two addresses. -/
theorem address_eq_iff {x r : RegName} (hx : x.wf = true) (hr : r.wf = true) : r.address = x.address ↔ x = r := by
  refine ⟨fun h => ?_, fun h => h ▸ rfl⟩
  have := regAt_address hr
  rwa [h, regAt_address hx, Option.some.injEq] at this

/-- The offset of an array element is added to its array's base without wrapping round the six address bits. -/
theorem ofNat_address_toNat {base k : Nat} (h : base + k < 64) : (BitVec.ofNat 6 (base + k)).toNat = base + k := by
  rw [BitVec.toNat_ofNat]
  exact Nat.mod_eq_of_lt h

/-! ## Reads -/

@[simp] theorem State.taken_reg (s : State) (e : PortEvent) (q : List PortEvent) (r : RegName) :
    (s.taken e q).reg r = s.reg r := by
  cases r <;> rfl

theorem State.readReg_address (s : State) {r : RegName} (h : r.wf = true) : s.readReg r.address = s.reg r := by
  simp only [State.readReg, regAt_address h]

theorem State.readReg_reserved (s : State) {a : BitVec 6} (h : 0x24 ≤ a.toNat) : s.readReg a = 0x00 := by
  simp only [State.readReg, (regAt_eq_none_iff a).2 h]

/-- 10_state.md R17, R20: STATUS bit by bit, bit 0 first. -/
theorem State.byteBits_status (s : State) :
    byteBits s.status =
      [s.seq.busy, s.flags.presence, s.flags.ok, s.flags.crcOk, s.flags.nonzero, false, false, s.flags.fault] :=
  byteBits_bitsByte _ _ _ _ _ _ _ _

theorem Seq.busy_iff (q : Seq) : q.busy = true ↔ q ≠ .idle := by
  cases q <;> simp [Seq.busy]

theorem Seq.idle_or_run (q : Seq) : q = .idle ∨ ∃ r, q = .run r := by
  cases q with
  | idle => exact .inl rfl
  | run r => exact .inr ⟨r, rfl⟩

/-! ## Writes while idle -/

/-- Cutting a byte down to its low `m` bits and reading it back is masking it. -/
theorem setWidth_setWidth_eq_mask (v : Byte) {m : Nat} (hm : m ≤ 8) :
    (v.setWidth m).setWidth 8 = v &&& BitVec.ofNat 8 (2 ^ m - 1) := by
  have hpow : 2 ^ m ≤ 2 ^ 8 := Nat.pow_le_pow_right (by decide) hm
  have hlow : v.toNat % 2 ^ m < 2 ^ 8 := (Nat.mod_lt _ (Nat.two_pow_pos m)).trans_le hpow
  have hmask : 2 ^ m - 1 < 2 ^ 8 := (Nat.sub_lt (Nat.two_pow_pos m) Nat.one_pos).trans_le hpow
  refine BitVec.eq_of_toNat_eq ?_
  rw [BitVec.toNat_setWidth, BitVec.toNat_setWidth, BitVec.toNat_and, BitVec.toNat_ofNat, Nat.mod_eq_of_lt hlow,
    Nat.mod_eq_of_lt hmask, Nat.and_two_pow_sub_one_eq_mod]

theorem bitByte_getLsbD_zero (v : Byte) : bitByte (v.getLsbD 0) = v &&& 0x01 := by
  revert v
  decide

theorem getD_setIfInBounds_of_lt {n j k : Nat} (A : Vector Byte n) (x : Byte) (hk : k < n) :
    (A.setIfInBounds j x).getD k 0 = if j = k then x else A.getD k 0 := by
  simp only [getD_setIfInBounds, hk, and_true]

/-- 10_state.md R14, R22 to R24: a write stores the used bits of the register named and leaves every other register. -/
theorem State.reg_setReg (s : State) (v : Byte) (x : RegName) {r : RegName} (hr : r.wf = true) :
    (s.setReg v x).reg r = if x = r then storedByte r (s.reg r) v else s.reg r := by
  cases x with
  | ld =>
    cases r with
    | ld => exact setWidth_setWidth_eq_mask v (m := 7) (by decide)
    | _ => rfl
  | lfd =>
    cases r with
    | lfd => exact setWidth_setWidth_eq_mask v (m := 4) (by decide)
    | _ => rfl
  | ldf =>
    cases r with
    | ldf => exact bitByte_getLsbD_zero v
    | _ => rfl
  | romNo j =>
    cases r with
    | romNo k =>
      simpa [State.setReg, State.reg, storedByte] using getD_setIfInBounds_of_lt s.romNo v (of_decide_eq_true hr)
    | _ => rfl
  | addr j =>
    cases r with
    | addr k =>
      simpa [State.setReg, State.reg, storedByte] using getD_setIfInBounds_of_lt s.addr v (of_decide_eq_true hr)
    | _ => rfl
  | sp j =>
    cases r with
    | sp k =>
      simpa [State.setReg, State.reg, storedByte] using getD_setIfInBounds_of_lt s.sp v (of_decide_eq_true hr)
    | _ => rfl
  | cmd | status | err | data | crc | wth | wtl | wcfg => cases r <;> rfl

/-- The same by address; at a reserved address stands no register, so none changes (10_state.md R29). -/
theorem State.reg_writeReg (s : State) (a : BitVec 6) (v : Byte) {r : RegName} (hr : r.wf = true) :
    (s.writeReg a v).reg r = if r.address = a then storedByte r (s.reg r) v else s.reg r := by
  unfold State.writeReg
  cases ha : regAt a with
  | none =>
    have hne : r.address ≠ a := by
      rintro rfl
      rw [regAt_address hr] at ha
      cases ha
    rw [if_neg hne]
  | some x =>
    obtain ⟨hx, rfl, -⟩ := regAt_some ha
    simp only [State.reg_setReg s v x hr, address_eq_iff hx hr]

/-- Everything a write while idle can change: the writable registers (10_state.md R14). -/
theorem State.writeReg_changes (s : State) (a : BitVec 6) (v : Byte) :
    ∃ (d : Byte) (l : BitVec 7) (m : BitVec 4) (z : Bool) (R A : Address) (P : Pad) (th tl cfg : Byte),
      s.writeReg a v = { s with
        data := d, ld := l, lfd := m, ldf := z, romNo := R, addr := A, sp := P, wth := th, wtl := tl, wcfg := cfg } := by
  unfold State.writeReg
  cases regAt a with
  | none => exact ⟨_, _, _, _, _, _, _, _, _, _, rfl⟩
  | some r => cases r <;> exact ⟨_, _, _, _, _, _, _, _, _, _, rfl⟩

end Sys2Proof.Machine
end

section
/-! SUPPORT. What one step is, by the event due at the host port and by the sequencer (10_state.md R13, R15, R35). -/

namespace Sys2Proof.Machine

/-! ## While idle -/

theorem decodeOpcode_of_decode {v : Byte} {i : Instr} (h : decode [v] = .ok (i, [])) : decodeOpcode v = .ok i := by
  cases hd : decodeOpcode v with
  | error e => simp [decode, hd] at h
  | ok j => simpa [decode, hd] using h

/-- A host that waits for BUSY = 0 sees the command as one transition (20_memory.md R52). -/
theorem launchOpcode_waiting (s : State) {v : Byte} {i : Instr} (hd : decodeOpcode v = .ok i) :
    launchOpcode v none s = exec i { s with cmd := v } := by
  simp only [launchOpcode, hd]

/-- A host that does not wait leaves it running. -/
theorem launchOpcode_running (s : State) {v : Byte} {i : Instr} (k : Nat) (hd : decodeOpcode v = .ok i) :
    launchOpcode v (some k) s = .next (({ s with cmd := v } : State).begin i) := by
  simp only [launchOpcode, hd]

/-- 10_state.md R15: a write to CMD while idle. -/
theorem step_write_cmd {s : State} {v : Byte} {h : Option Nat} {q : List PortEvent} (hn : s.rstIn = false)
    (hs : s.seq = .idle) (hq : s.hostQ = ⟨.write 0x00 v, h⟩ :: q) :
    step s = launchOpcode v h (s.taken ⟨.write 0x00 v, h⟩ q) :=
  step_idle_event hn hs hq

theorem step_write_idle {s : State} {a : BitVec 6} {v : Byte} {h : Option Nat} {q : List PortEvent} (hn : s.rstIn = false)
    (hs : s.seq = .idle) (hq : s.hostQ = ⟨.write a v, h⟩ :: q) (ha : a ≠ 0x00) :
    step s = .next ((s.taken ⟨.write a v, h⟩ q).writeReg a v) := by
  rw [step_idle_event hn hs hq]
  exact if_neg ha

theorem step_read_idle {s : State} {a : BitVec 6} {h : Option Nat} {q : List PortEvent} (hn : s.rstIn = false)
    (hs : s.seq = .idle) (hq : s.hostQ = ⟨.read a, h⟩ :: q) :
    step s = .next { s with rdata := (s.taken ⟨.read a, h⟩ q).readReg a, hostQ := q, hostWait := h } := by
  rw [step_idle_event hn hs hq]
  rfl

/-! ## While a command runs -/

theorem State.busyRead_status (s : State) : s.busyRead RegName.status.address = { s with rdata := s.status } := rfl

theorem State.busyRead_other (s : State) {x : RegName} (hx : x.wf = true) (hne : x ≠ .status) :
    s.busyRead x.address = { s with rdata := Config.freeRead s.freeReads, freeReads := s.freeReads + 1 } := by
  unfold State.busyRead
  rw [regAt_address hx]
  cases x with
  | status => exact absurd rfl hne
  | _ => rfl

theorem State.busyWrite_register (s : State) {x : RegName} (hx : x.wf = true) : s.busyWrite x.address = s.misuse := by
  unfold State.busyWrite
  rw [regAt_address hx]

/-- The host waits for BUSY = 0. -/
theorem busyStep_waiting {s : State} (hw : s.hostWait = none) : busyStep s = s.tick := by
  unfold busyStep
  rw [hw]

/-- The next event comes later. -/
theorem busyStep_later {s : State} {k : Nat} (hw : s.hostWait = some (k + 1)) :
    busyStep s = { s with hostWait := some k }.tick := by
  unfold busyStep
  rw [hw]

/-- No event is left. -/
theorem busyStep_noEvent {s : State} (hw : s.hostWait = some 0) (hq : s.hostQ = []) : busyStep s = s.tick := by
  unfold busyStep
  rw [hw, hq]

/-- 10_state.md R35: STATUS reads exactly whenever the read is due, while idle or in the middle of a command. -/
theorem step_read_status {s : State} {h : Option Nat} {q : List PortEvent} (hn : s.rstIn = false)
    (hdue : s.seq = .idle ∨ s.hostWait = some 0) (hq : s.hostQ = ⟨.read 0x01, h⟩ :: q) :
    step s = .next { s with rdata := s.status, hostQ := q, hostWait := h } := by
  rcases s.seq.idle_or_run with hs | ⟨r, hs⟩
  · exact step_read_idle hn hs hq
  · exact step_run_event hn hs (hdue.resolve_left (by simp [hs])) hq

/-! ## Launches -/

theorem SeqRegs.first_cmd (i : Instr) (s : State) : (SeqRegs.first i s).cmd = i := by
  cases i with
  | searchRom | searchAlarm =>
    unfold SeqRegs.first
    cases s.ldf <;> rfl
  | _ => rfl

/-- 10_state.md R17: a launch forgets every result an earlier command left, and keeps FAULT. -/
theorem State.launch_stale (s : State) {f : Flags} (e : ErrCode) (hf : f.fault = s.flags.fault) :
    State.launch { s with flags := f, err := e } = s.launch := by
  simp only [State.launch, Flags.launched, hf]

/-- Every command begins with the launch, so it does the same from the launched state (10_state.md R17, R18). -/
theorem exec_launch (i : Instr) (s : State) : exec i s.launch = exec i s := by
  cases i <;> rfl

end Sys2Proof.Machine
end

section
/-! PROOFS. The statements about the registers, the host port and reset. -/

namespace Sys2Proof.Machine

/-- Settles O7: the step stores through the register map, which changes the writable registers only. -/
theorem idleHostWriteStoresOneRegister : Obligations.IdleHostWriteStoresOneRegister := by
  intro s a v h q hn hs hq ha
  have hstep := step_write_idle hn hs hq ha
  refine ⟨_, hstep, fun r hr => ?_, ?_⟩
  · simp only [State.reg_writeReg _ a v hr, State.taken_reg]
  · obtain ⟨_, _, _, _, _, _, _, _, _, _, hw⟩ := (s.taken ⟨.write a v, h⟩ q).writeReg_changes a v
    rw [hw]
    exact ⟨rfl, hs, rfl, rfl, rfl, rfl, rfl⟩

/-- Settles O3: `regAt_address` one way and `regAt_some` the other, after the addresses by value. -/
theorem registerMapIsOneToOne : Obligations.RegisterMapIsOneToOne := by
  refine ⟨⟨rfl, rfl, rfl, rfl, rfl, rfl, rfl, rfl, fun k hk => ?_, fun k hk => ?_, fun k hk => ?_, rfl, rfl, rfl⟩,
    fun r hr => ⟨regAt_address hr, address_toNat_lt hr⟩, fun a r har => ?_, regAt_eq_none_iff⟩
  · exact ofNat_address_toNat (by omega)
  · exact ofNat_address_toNat (by omega)
  · exact ofNat_address_toNat (by omega)
  · obtain ⟨hwf, haddr, -⟩ := regAt_some har
    exact ⟨hwf, haddr⟩

/-- Settles O4: the event launches the opcode, and a host that waits sees the whole command. -/
theorem stepRunsTheDecodedCommand : Obligations.StepRunsTheDecodedCommand := by
  intro s v i q hn hs hq hd
  rw [step_write_cmd hn hs hq, launchOpcode_waiting _ (decodeOpcode_of_decode hd)]
  rfl

/-- Settles O5: the launched command is the sequencer's, and a step with no event due is one tick. -/
theorem launchLeavesTheCommandRunning : Obligations.LaunchLeavesTheCommandRunning := by
  refine ⟨fun s v i k q hn hs hq hd => ?_, fun s r hn hs => ⟨fun hw => ?_, fun k hw => ?_, fun hw hq => ?_⟩⟩
  · refine ⟨?_, SeqRegs.first i { s with cmd := v, hostQ := q, hostWait := some k }, SeqRegs.first_cmd i _, rfl⟩
    rw [step_write_cmd hn hs hq, launchOpcode_running _ k (decodeOpcode_of_decode hd)]
    rfl
  · rw [step_run hn hs, busyStep_waiting hw]
  · rw [step_run hn hs, busyStep_later hw]
  · rw [step_run hn hs, busyStep_noEvent hw hq]

/-- Settles O8: the step answers `readReg`, which is the register at its address and 0x00 at a reserved one. -/
theorem idleHostReadAnswersTheRegister : Obligations.IdleHostReadAnswersTheRegister := by
  intro s a h q hn hs hq
  refine ⟨fun r hr hra => ?_, fun ha => ?_⟩
  · subst hra
    rw [step_read_idle hn hs hq, State.readReg_address _ hr, State.taken_reg]
  · rw [step_read_idle hn hs hq, State.readReg_reserved _ ha]

/-- Settles O9: the three accesses of R35, each at the address of a register. -/
theorem busyAccessIsTurnedAway : Obligations.BusyAccessIsTurnedAway := by
  intro s r x h q hn hs hw hx
  refine ⟨fun hq hst => ?_, fun hq hne => ?_, fun v hq => ?_⟩
  · subst hst
    have hbits := s.byteBits_status
    rw [hs] at hbits
    exact ⟨step_read_status hn (.inr hw) hq, (List.cons.inj hbits).1⟩
  · rw [step_run_event hn hs hw hq]
    simp only [busyEvent, State.busyRead_other _ hx hne]
    rfl
  · rw [step_run_event hn hs hw hq]
    simp only [busyEvent, State.busyWrite_register _ hx]
    rfl

/-- Settles O10: the byte read is STATUS, whose eight bits `State.byteBits_status` lists. -/
theorem statusLayout : Obligations.StatusLayout := by
  intro s h q hn hdue hq
  refine ⟨_, step_read_status hn hdue hq, ?_⟩
  have hbits := s.byteBits_status
  simp only [byteBits, List.cons.injEq, and_true] at hbits
  obtain ⟨hbusy, hrest⟩ := hbits
  exact ⟨hbusy ▸ Seq.busy_iff s.seq, hrest⟩

/-- Settles O14, by the reset value of every register. -/
theorem resetReadsZero : Obligations.ResetReadsZero := ⟨State.reset_registers, rfl, rfl⟩

/-- Settles O15: the reset block is idle and released, reports nothing, and is not held in reset. -/
theorem resetMeetsTheInvariant : Obligations.ResetMeetsTheInvariant where
  seq := rfl
  okNoError _ := rfl
  notMalformed := ErrCode.noConfusion
  held := notHeld rfl

/-- Settles O21: the launch at the start of every command forgets the results. -/
theorem staleResultsNeverMatter : Obligations.StaleResultsNeverMatter := by
  intro i s f e hf
  calc exec i { s with flags := f, err := e }
      = exec i (State.launch { s with flags := f, err := e }) := (exec_launch i _).symm
    _ = exec i s.launch := by rw [State.launch_stale s e hf]
    _ = exec i s := exec_launch i s

end Sys2Proof.Machine
end

section
/-! PROOFS. A command run tick by tick (10_state.md R20, 44_search.md R125) ends as its atomic meaning says (20_memory.md R52):
each position of a command reaches the next with the line as the procedure of the line driver leaves it. -/

namespace Sys2Proof.Machine

/-! ## Reaching a state -/

/-- Left alone, the sequencer comes from `s` to `t`. -/
def Reaches (s t : State) : Prop := ∃ k, State.ticks k s = t

theorem Reaches.refl (s : State) : Reaches s s := ⟨0, rfl⟩

theorem Reaches.of_ticks {s u t : State} {k : Nat} (h : State.ticks k s = u) (hu : Reaches u t) : Reaches s t := by
  obtain ⟨j, hj⟩ := hu
  exact ⟨k + j, by rw [State.ticks_add, h, hj]⟩

/-- The sequencer at the end of an exchange that sampled `level`, and of its settle DELAY. -/
def SeqRegs.ended (ph : Phase) (level : Bool) (r : SeqRegs) : SeqRegs :=
  { r with phase := ph, slot := none, ops := [], settle := 0, level := level }

/-- What follows an exchange does not depend on where SEQ stood before. -/
theorem SeqRegs.advance_seq (r : SeqRegs) (s : State) (q : Seq) (h : r.phase ≠ .compute) :
    r.advance { s with seq := q } = r.advance s := by
  obtain ⟨_, phase, _, _, _, _, _, _, _, _, _, _, _, _, _⟩ := r
  cases phase with
  | compute => exact absurd rfl h
  | _ => rfl

section
variable {s t : State} {r : SeqRegs} {ph : Phase}

/-- One exchange with its settle DELAY. -/
theorem Reaches.exchange {slot : Slot} {gap : Nat} (ht : r.timer = 0) (hp : ph ≠ .compute)
    (h : Reaches ((r.ended ph (s.line.exchange s.params slot).1).advance
      { s with line := (s.line.exchange s.params slot).2.delay gap }) t) :
    Reaches (s.runs (r.start s.params ph slot gap)) t := by
  obtain ⟨k, q, hk⟩ := State.ticks_exchange slot (r.start s.params ph slot gap) s ht rfl rfl rfl
  refine Reaches.of_ticks (hk.trans ?_) h
  exact SeqRegs.advance_seq (r.ended ph (s.line.exchange s.params slot).1)
    { s with line := (s.line.exchange s.params slot).2.delay gap } q hp

/-- A reset: the line is sampled low exactly when the bus answers (42_reset_presence.md R110). -/
theorem Reaches.reset (ht : r.timer = 0) (hp : ph ≠ .compute)
    (h : Reaches ((r.ended ph (!s.line.bus.reset.1)).advance { s with line := (s.line.busReset s.params).2 }) t) :
    Reaches (s.runs (r.start s.params ph .reset 0)) t := by
  have hl : (s.line.exchange s.params .reset).1 = !s.line.bus.reset.1 :=
    Bool.not_eq_eq_eq_not.mp (congrArg Prod.fst (Line.busReset_eq s.params s.line))
  refine Reaches.exchange ht hp ?_
  rw [hl]
  exact h

/-! ## A byte out -/

/-- The phases in which a command sends a byte. -/
def Phase.sends (i : Instr) : Phase → Bool
  | .byte => decide (i ≠ .readByte)
  | .searchCommand | .readMatch | .readAddr | .readCommand | .writeMatch | .writeAddr | .writeCommand | .writeData => true
  | .compute | .bit | .presence | .searchReset | .searchId | .searchCmp | .searchDir | .readReset | .readData | .readClose
  | .writeReset | .writeClose => false

theorem SeqRegs.advance_of_sends (r : SeqRegs) (s : State) (h : r.phase.sends r.cmd = true) :
    r.advance s = if r.bitCount = 7 then r.sent s else s.runs (r.sendNext s.params) := by
  obtain ⟨cmd, phase, _, _, _, _, _, _, _, _, _, _, _, _, _⟩ := r
  cases phase with
  | byte => exact if_neg (of_decide_eq_true h)
  | searchCommand | readMatch | readAddr | readCommand | writeMatch | writeAddr | writeCommand | writeData => rfl
  | _ => cases h

/-- The level is not sampled in a write slot (41_transport.md R100). -/
theorem Line.exchange_write (p : Params) (b : Bool) (l : Line) : l.exchange p (.write b) = (true, l.writeBit p b) := by
  cases b <;> rfl

/-- The `k + 1` bits of a byte that are still to go, and the settle DELAY. -/
theorem Reaches.sendBits {gap : Nat} (k : Nat) {c : BitVec 3} (x : Byte) (ht : r.timer = 0) (hs : ph.sends r.cmd = true)
    (hc : c.toNat + k = 7) (hg : gap = if k = 0 then s.params.dur.wByteGap else 0)
    (h : ∀ y, Reaches (({ r with shift := y, bitCount := 7 }.ended ph true).sent
      { s with line := (s.line.writeBits s.params ((List.range (k + 1)).map x.getLsbD)).delay s.params.dur.wByteGap }) t) :
    Reaches (s.runs ({ r with shift := x, bitCount := c }.start s.params ph (.write (x.getLsbD 0)) gap)) t := by
  have hp : ph ≠ .compute := by rintro rfl; cases hs
  induction k generalizing c x s gap with
  | zero =>
    obtain rfl : c = 7 := BitVec.eq_of_toNat_eq hc
    refine Reaches.exchange ht hp ?_
    rw [Line.exchange_write, SeqRegs.advance_of_sends _ _ hs, hg]
    exact h x
  | succ k ih =>
    have hne : c ≠ 7 := by rintro rfl; simp at hc
    have hlast : c = 6 ↔ k = 0 := by bv_omega
    refine Reaches.exchange ht hp ?_
    rw [Line.exchange_write, SeqRegs.advance_of_sends _ _ hs, if_neg (by exact hne), hg]
    refine ih (s := { s with line := s.line.writeBit s.params (x.getLsbD 0) }) (x >>> 1) (c := c + 1) ?_ ?_ ?_
    · bv_omega
    · exact if_congr hlast rfl rfl
    · intro y
      have hbits : (List.range (k + 1 + 1)).map x.getLsbD =
          x.getLsbD 0 :: (List.range (k + 1)).map (x >>> 1).getLsbD := by
        rw [List.range_succ_eq_map]
        simp [Function.comp_def, Nat.add_comm]
      have := h y
      rwa [hbits] at this

/-- A whole byte (41_transport.md R102). -/
theorem Reaches.sendByte (v : Byte) (ht : r.timer = 0) (hs : ph.sends r.cmd = true)
    (h : ∀ y, Reaches (({ r with shift := y, bitCount := 7 }.ended ph true).sent
      { s with line := s.line.writeByte s.params v }) t) :
    Reaches (s.runs (r.send s.params ph v)) t :=
  Reaches.sendBits 7 v ht hs rfl rfl h

/-! ## A byte in -/

/-- A bit enters the shift register at the top (10_state.md R30). -/
def shiftIn (x : Byte) (b : Bool) : Byte := (x >>> 1) ||| (if b then 0x80 else 0x00)

theorem SeqRegs.shiftedIn_eq (r : SeqRegs) : r.shiftedIn = shiftIn r.shift r.level := rfl

/-- After eight bits, bit 0 is the first (41_transport.md R103). -/
theorem foldl_shiftIn {l : List Bool} (hl : l.length = 8) : l.foldl shiftIn 0 = bitsByte l := by
  match l, hl with
  | [a, b, c, d, e, f, g, h], _ => revert a b c d e f g h; decide

/-- The phases in which a command receives a byte. -/
def Phase.receives (i : Instr) : Phase → Bool
  | .byte => decide (i = .readByte)
  | .readData => true
  | .compute | .bit | .presence | .searchReset | .searchCommand | .searchId | .searchCmp | .searchDir | .readReset | .readMatch
  | .readAddr | .readCommand | .readClose | .writeReset | .writeMatch | .writeAddr | .writeCommand | .writeData
  | .writeClose => false

theorem SeqRegs.advance_of_receives (r : SeqRegs) (s : State) (h : r.phase.receives r.cmd = true) (hb : r.bitCount ≠ 7) :
    r.advance s = s.runs (r.receiveNext s.params) := by
  obtain ⟨cmd, phase, _, _, _, _, _, _, _, _, _, _, _, _, _⟩ := r
  cases phase with
  | byte => exact (if_pos (of_decide_eq_true h)).trans (if_neg hb)
  | readData => exact if_neg hb
  | _ => cases h

/-- The `k + 1` bits of a byte that are still to come, each with its settle DELAY. -/
theorem Reaches.receiveBits (k : Nat) {c : BitVec 3} (x : Byte) (ht : r.timer = 0) (hr : ph.receives r.cmd = true)
    (hc : c.toNat + k = 7)
    (h : ∀ y b, shiftIn y b = (s.line.readBits s.params (k + 1)).1.foldl shiftIn x →
      Reaches (({ r with shift := y, bitCount := 7 }.ended ph b).advance
        { s with line := (s.line.readBits s.params (k + 1)).2 }) t) :
    Reaches (s.runs ({ r with shift := x, bitCount := c }.start s.params ph .read s.params.dur.rBitGap)) t := by
  have hp : ph ≠ .compute := by rintro rfl; cases hr
  induction k generalizing c x s with
  | zero =>
    obtain rfl : c = 7 := BitVec.eq_of_toNat_eq hc
    exact Reaches.exchange ht hp (h x (s.line.readBit s.params).1 rfl)
  | succ k ih =>
    have hne : c ≠ 7 := by rintro rfl; simp at hc
    refine Reaches.exchange ht hp ?_
    rw [SeqRegs.advance_of_receives _ _ hr hne, SeqRegs.receiveNext, SeqRegs.shiftedIn_eq]
    exact ih (s := { s with line := (s.line.readBit s.params).2.delay s.params.dur.rBitGap })
      (shiftIn x (s.line.readBit s.params).1) (c := c + 1) (by bv_omega) h

/-- A whole byte (41_transport.md R103). -/
theorem Reaches.receiveByte (ht : r.timer = 0) (hr : ph.receives r.cmd = true)
    (h : ∀ y b, shiftIn y b = (s.line.readByte s.params).1 →
      Reaches (({ r with shift := y, bitCount := 7 }.ended ph b).advance
        { s with line := (s.line.readByte s.params).2 }) t) :
    Reaches (s.runs (r.receive s.params ph)) t := by
  refine Reaches.receiveBits 7 0 ht hr rfl fun y b hy => h y b ?_
  rw [hy, foldl_shiftIn (Line.readBits_length s.params s.line 8)]
  rfl

/-! ## Scratchpad frames -/

/-- The phases that select a device and send it one command byte (45_scratchpad.md R140): `m` sends the match command, `a` the
address, `c` the byte `f` of the configuration. -/
structure Selects (m a c : Phase) (f : Params → Byte) : Prop where
  sends : ∀ i, m.sends i = true ∧ a.sends i = true ∧ c.sends i = true
  sent_match : ∀ (r : SeqRegs) (s : State), r.phase = m →
    r.sent s = s.runs ({ r with byteCount := 0 }.send s.params a (s.addr.getD 0 0))
  sent_addr : ∀ (r : SeqRegs) (s : State), r.phase = a →
    r.sent s = if r.byteCount = 7 then s.runs (r.send s.params c (f s.params))
      else s.runs ({ r with byteCount := r.byteCount + 1 }.send s.params a (s.addr.getD (r.byteCount.toNat + 1) 0))

theorem selects_read : Selects .readMatch .readAddr .readCommand Params.cmdReadScratchpad where
  sends _ := ⟨rfl, rfl, rfl⟩
  sent_match r s h := by simp only [SeqRegs.sent, h]
  sent_addr r s h := by simp only [SeqRegs.sent, h]

theorem selects_write : Selects .writeMatch .writeAddr .writeCommand Params.cmdWriteScratchpad where
  sends _ := ⟨rfl, rfl, rfl⟩
  sent_match r s h := by simp only [SeqRegs.sent, h]
  sent_addr r s h := by simp only [SeqRegs.sent, h]

variable {m a c : Phase} {f : Params → Byte}

theorem Line.writeBytes_cons (p : Params) (v : Byte) (vs : List Byte) (l : Line) :
    l.writeBytes p (v :: vs) = (l.writeByte p v).writeBytes p vs := rfl

theorem address_drop (A : Address) {k : Nat} (hk : k < 8) : A.toList.drop k = A.getD k 0 :: A.toList.drop (k + 1) := by
  rw [List.drop_eq_getElem_cons (by simpa using hk), getD_of_lt A hk]
  simp

/-- The `k + 1` bytes of the address that are still to go, from byte `j` on, and the command byte. -/
theorem Reaches.sendAddress (hm : Selects m a c f) (k : Nat) {j : BitVec 4} (hj : j.toNat + k = 7) (ht : r.timer = 0)
    (h : ∀ r' : SeqRegs, r'.cmd = r.cmd → r'.timer = 0 → r'.phase = c →
      Reaches (r'.sent { s with
        line := (s.line.writeBytes s.params (s.addr.toList.drop j.toNat)).writeByte s.params (f s.params) }) t) :
    Reaches (s.runs ({ r with byteCount := j }.send s.params a (s.addr.getD j.toNat 0))) t := by
  obtain ⟨-, ha, hc⟩ := hm.sends r.cmd
  induction k generalizing j s r with
  | zero =>
    obtain rfl : j = 7 := BitVec.eq_of_toNat_eq hj
    refine Reaches.sendByte _ ht ha fun y => ?_
    rw [hm.sent_addr _ _ rfl, if_pos (by rfl)]
    refine Reaches.sendByte (s := { s with line := s.line.writeByte s.params (s.addr.getD 7 0) }) _ ht hc fun z => ?_
    have hlast : s.addr.toList.drop 7 = [s.addr.getD 7 0] := by
      rw [address_drop _ (by decide), List.drop_eq_nil_of_le (by simp)]
    have := h ({ r with byteCount := 7, shift := z, bitCount := 7 }.ended c true) rfl ht rfl
    rw [show (7 : BitVec 4).toNat = 7 from rfl, hlast] at this
    exact this
  | succ k ih =>
    have hne : j ≠ 7 := by rintro rfl; simp at hj
    have hsucc : (j + 1).toNat = j.toNat + 1 := by bv_omega
    refine Reaches.sendByte _ ht ha fun y => ?_
    rw [hm.sent_addr _ _ rfl, if_neg (by exact hne)]
    have key := ih (s := { s with line := s.line.writeByte s.params (s.addr.getD j.toNat 0) }) (r := r) (j := j + 1)
      (by omega) ht (fun r' h1 h2 h3 => ?_) ha hc
    · rw [hsucc] at key
      exact key
    · have := h r' h1 h2 h3
      rw [address_drop _ (by omega), Line.writeBytes_cons, ← hsucc] at this
      exact this

/-- The selection and the command byte of a frame (45_scratchpad.md R140 to R142). -/
theorem Reaches.select (hm : Selects m a c f) (ht : r.timer = 0)
    (h : ∀ r' : SeqRegs, r'.cmd = r.cmd → r'.timer = 0 → r'.phase = c →
      Reaches (r'.sent { s with line := (s.line.select s.params s.addr).writeByte s.params (f s.params) }) t) :
    Reaches (s.runs (r.send s.params m s.params.cmdMatchRom)) t := by
  obtain ⟨hs, -, -⟩ := hm.sends r.cmd
  refine Reaches.sendByte _ ht hs fun y => ?_
  rw [hm.sent_match _ _ rfl]
  exact Reaches.sendAddress (s := { s with line := s.line.writeByte s.params s.params.cmdMatchRom }) hm 7 (j := 0) rfl
    (by exact ht) h

/-- The `k + 1` bytes of the scratchpad that are still to come, from element `j` on. -/
theorem Reaches.receivePad (k : Nat) {j : BitVec 4} (hj : j.toNat + k = 8) (ht : r.timer = 0)
    (h : ∀ r' : SeqRegs, r'.cmd = r.cmd → r'.timer = 0 →
      Reaches (({ s with
          sp := (s.line.readPad s.params (k + 1) s.sp).1
          line := (s.line.readPad s.params (k + 1) s.sp).2 } : State).runs
        (r'.start s.params .readClose .reset 0)) t) :
    Reaches (s.runs ({ r with byteCount := j }.receive s.params .readData)) t := by
  induction k generalizing j s r with
  | zero =>
    obtain rfl : j = 8 := BitVec.eq_of_toNat_eq hj
    refine Reaches.receiveByte ht rfl fun y b hy => ?_
    have := h ({ r with byteCount := 8, shift := y, bitCount := 7 }.ended .readData b) rfl ht
    simp only [Line.readPad, ← hy] at this
    exact this
  | succ k ih =>
    have hne : j ≠ 8 := by rintro rfl; simp at hj
    have hjk : j.toNat = 8 - (k + 1) := by omega
    refine Reaches.receiveByte ht rfl fun y b hy => ?_
    have hstep : ({ r with byteCount := j, shift := y, bitCount := 7 }.ended .readData b).advance
          { s with line := (s.line.readByte s.params).2 } =
        ({ s with sp := s.sp.setIfInBounds (8 - (k + 1)) (s.line.readByte s.params).1,
                  line := (s.line.readByte s.params).2 } : State).runs
          ({ r with byteCount := j + 1 }.receive s.params .readData) := by
      rw [← hjk, ← hy]
      exact if_neg hne
    rw [hstep]
    exact ih (s := { s with sp := _, line := _ }) (by bv_omega) ht h

/-- 45_scratchpad.md R141: the read frame after the reset that opens it. -/
theorem Reaches.readFrame (ht : r.timer = 0)
    (h : ∀ r' : SeqRegs, r'.cmd = r.cmd → r'.timer = 0 → Reaches (r'.readFrameClosed s.readFrame) t) :
    Reaches (s.runs (r.send s.params .readMatch s.params.cmdMatchRom)) t := by
  refine Reaches.select selects_read ht fun r₁ hc₁ ht₁ hp₁ => ?_
  simp only [State.readFrame] at h
  generalize (s.line.select s.params s.addr).writeByte s.params s.params.cmdReadScratchpad = l at h ⊢
  simp only [SeqRegs.sent, hp₁]
  refine Reaches.receivePad (s := { s with line := l }) 8 (j := 0) rfl ht₁ fun r₂ hc₂ ht₂ => ?_
  simp only at hc₂ ⊢
  generalize l.readPad s.params 9 s.sp = y at h ⊢
  refine Reaches.reset (s := { s with sp := y.1, line := y.2 }) ht₂ (by decide) ?_
  exact h (r₂.ended .readClose (!y.2.bus.reset.1)) (hc₂.trans hc₁) ht₂

/-- 45_scratchpad.md R142: the three payload bytes and the reset that closes the frame. -/
theorem Reaches.writePayload (ht : r.timer = 0) :
    Reaches (s.runs ({ r with byteCount := 0 }.send s.params .writeData s.wth))
      (State.done true { s with
        line := ((s.line.writeBytes s.params [s.wth, s.wtl, s.wcfg]).busReset s.params).2 }) := by
  simp only [Line.writeBytes, List.foldl_cons, List.foldl_nil]
  refine Reaches.sendByte _ ht rfl fun y₁ => ?_
  generalize s.line.writeByte s.params s.wth = l₁
  refine Reaches.sendByte (s := { s with line := l₁ }) (r := { r with byteCount := 1 }) _ ht rfl fun y₂ => ?_
  generalize l₁.writeByte s.params s.wtl = l₂
  refine Reaches.sendByte (s := { s with line := l₂ }) (r := { r with byteCount := 2 }) _ ht rfl fun y₃ => ?_
  generalize l₂.writeByte s.params s.wcfg = l₃
  exact Reaches.reset (s := { s with line := l₃ }) ht (by decide) (Reaches.refl _)

/-- 45_scratchpad.md R142: the write frame after the reset that opens it. -/
theorem Reaches.writeFrame (ht : r.timer = 0) :
    Reaches (s.runs (r.send s.params .writeMatch s.params.cmdMatchRom)) (s.writeFrame.done true) := by
  refine Reaches.select selects_write ht fun r₁ hc₁ ht₁ hp₁ => ?_
  rw [State.writeFrame, State.onLine]
  simp only [Line.writeBytes_cons _ s.params.cmdWriteScratchpad]
  generalize (s.line.select s.params s.addr).writeByte s.params s.params.cmdWriteScratchpad = l
  simp only [SeqRegs.sent, hp₁]
  exact Reaches.writePayload (s := { s with line := l }) ht₁

/-! ## Search -/

/-- 44_search.md R127 step 5, R131: the end of a search, by what the traversal answers. -/
def State.searchEnd (x : Option (BitVec 7) × State) : State :=
  match x.1 with
  | some lastZero => x.2.searchFound lastZero
  | none => x.2.searchFailed .searchAborted

theorem SeqRegs.advance_searchCmp (r : SeqRegs) (b : Bool) (s : State) :
    (r.ended .searchCmp b).advance s =
      if r.idBit && b then s.searchFailed .searchAborted
      else (s.storeDirection r.n.toNat r.idBit b).runs
        ({ r with
            cmpBit := b
            dir := s.direction r.n.toNat r.idBit b
            lastZero := s.lastZeroAt r.n.toNat r.idBit b r.lastZero }.start s.params .searchDir
          (.write (s.direction r.n.toNat r.idBit b)) 0) := rfl

theorem SeqRegs.advance_searchDir (r : SeqRegs) (b : Bool) (s : State) :
    (r.ended .searchDir b).advance s =
      if r.n = 64 then s.searchFound r.lastZero
      else s.runs ({ r with n := r.n + 1 }.start s.params .searchId .read 0) := rfl

/-- One position of the traversal, `k` more to go: two read slots, and the direction written when they do not both answer 1. -/
theorem Reaches.position {k : Nat} (hn : r.n.toNat + k = 64) (ht : r.timer = 0)
    (h : ∀ (r' : SeqRegs) (u : State), r'.timer = 0 → r'.n = r.n →
      Reaches ((r'.ended .searchDir true).advance u) (State.searchEnd (State.traverse k r'.lastZero u))) :
    Reaches (s.runs (r.start s.params .searchId .read 0)) (State.searchEnd (State.traverse (k + 1) r.lastZero s)) := by
  have hpos : 64 - k = r.n.toNat := by omega
  generalize hx : s.line.readBit s.params = x
  generalize hy : x.2.readBit s.params = y
  simp only [State.traverse, hx, hy, hpos]
  refine Reaches.exchange ht (by decide) ?_
  rw [show s.line.exchange s.params .read = x from hx]
  refine Reaches.exchange (s := { s with line := x.2 }) (r := { r with idBit := x.1 }) ht (by decide) ?_
  simp only
  rw [show x.2.exchange s.params .read = y from hy, SeqRegs.advance_searchCmp]
  cases x.1 && y.1 with
  | true => exact Reaches.refl _
  | false =>
    refine Reaches.exchange (s := State.storeDirection { s with line := y.2 } r.n.toNat x.1 y.1)
      (r := { r with
        idBit := x.1
        cmpBit := y.1
        dir := s.direction r.n.toNat x.1 y.1
        lastZero := s.lastZeroAt r.n.toNat x.1 y.1 r.lastZero }) ht (by decide) ?_
    rw [Line.exchange_write]
    exact h _ _ ht rfl

/-- The `k + 1` positions of a traversal that are still to go (44_search.md R127 step 4). -/
theorem Reaches.traverse (k : Nat) (hn : r.n.toNat + k = 64) (ht : r.timer = 0) :
    Reaches (s.runs (r.start s.params .searchId .read 0)) (State.searchEnd (State.traverse (k + 1) r.lastZero s)) := by
  induction k generalizing r s with
  | zero =>
    refine Reaches.position hn ht fun r' u _ hn' => ?_
    have hlast : r'.n = 64 := hn'.trans (BitVec.eq_of_toNat_eq hn)
    rw [SeqRegs.advance_searchDir, if_pos hlast]
    exact Reaches.refl _
  | succ k ih =>
    refine Reaches.position hn ht fun r' u ht' hn' => ?_
    have hmore : r'.n ≠ 64 := by rintro hlast; simp [← hn', hlast] at hn
    rw [SeqRegs.advance_searchDir, if_neg hmore]
    exact ih (r := { r' with n := r'.n + 1 }) (by rw [hn']; bv_omega) ht'

/-- 44_search.md R127 after the reset: the command byte and the traversal. -/
theorem Reaches.search {v : Byte} (ht : r.timer = 0) :
    Reaches (s.runs (r.send s.params .searchCommand v))
      (State.searchEnd ((s.onLine fun l => l.writeByte s.params v).traverse 64 0)) := by
  refine Reaches.sendByte v ht rfl fun y => ?_
  exact Reaches.traverse (s := { s with line := s.line.writeByte s.params v })
    (r := { r with n := 1, lastZero := 0, shift := y, bitCount := 7 }) 63 rfl ht

/-! ## The reset that opens a frame -/

/-- Phase `ph` of command `i` opens a frame: without presence the command goes on with `A`, with presence with `B`. -/
structure Opens (i : Instr) (ph : Phase) (A : State → State) (B : SeqRegs → State → State) : Prop where
  exchanges : ph ≠ .compute
  absent : ∀ (r : SeqRegs) (s : State), r.cmd = i → (r.ended ph true).advance s = A (s.setPresence false)
  present : ∀ (r : SeqRegs) (s : State), r.cmd = i → (r.ended ph false).advance s = B (r.ended ph false) (s.setPresence true)

theorem opens_presence : Opens .busReset .presence (.fail .busAbsent) fun _ => .done true :=
  ⟨by decide, fun _ _ _ => rfl, fun _ _ _ => rfl⟩

theorem opens_search (i : Instr) : Opens i .searchReset (.searchFailed .busAbsent) fun r s =>
    s.runs (r.send s.params .searchCommand
      (if i = .searchAlarm then s.params.cmdSearchAlarm else s.params.cmdSearchRom)) :=
  ⟨by decide, fun _ _ _ => rfl, fun r _ hr => by subst hr; rfl⟩

theorem opens_read (i : Instr) : Opens i .readReset (.fail .busAbsent) fun r s =>
    s.runs (r.send s.params .readMatch s.params.cmdMatchRom) :=
  ⟨by decide, fun _ _ _ => rfl, fun _ _ _ => rfl⟩

theorem opens_write : Opens .writeScratchpad .writeReset (.fail .busAbsent) fun r s =>
    s.runs (r.send s.params .writeMatch s.params.cmdMatchRom) :=
  ⟨by decide, fun _ _ hr => if_neg (ne_of_eq_of_ne hr (by decide)), fun _ _ _ => rfl⟩

/-- 45_scratchpad.md R146: the presence result of a write-back is discarded. -/
theorem opens_writeBack : Opens .setResolution .writeReset (.done true) fun r s =>
    s.runs (r.send s.params .writeMatch s.params.cmdMatchRom) :=
  ⟨by decide, fun _ _ hr => if_pos hr, fun _ _ _ => rfl⟩

variable {A : State → State} {B : SeqRegs → State → State}

theorem Reaches.openFrame (hopen : Opens r.cmd ph A B) (ht : r.timer = 0)
    (h : Reaches (if s.openFrame.1 then B (r.ended ph false) s.openFrame.2 else A s.openFrame.2) t) :
    Reaches (s.runs (r.start s.params ph .reset 0)) t := by
  have hframe : s.openFrame = (s.line.bus.reset.1,
      State.setPresence s.line.bus.reset.1 { s with line := (s.line.busReset s.params).2 }) := by
    simp only [State.openFrame, Line.busReset_eq]
  rw [hframe] at h
  refine Reaches.reset ht hopen.exchanges ?_
  cases hb : s.line.bus.reset.1 with
  | false =>
    rw [hb] at h
    exact hopen.absent r _ rfl ▸ h
  | true =>
    rw [hb] at h
    exact hopen.present r _ rfl ▸ h

/-- 45_scratchpad.md R142, the end as the command has it. -/
theorem Reaches.writeSp
    (hopen : Opens r.cmd .writeReset A fun r s => s.runs (r.send s.params .writeMatch s.params.cmdMatchRom))
    (ht : r.timer = 0) :
    Reaches (s.runs (r.start s.params .writeReset .reset 0))
      (if s.writeSp.1 then s.writeSp.2.done true else A s.writeSp.2) := by
  refine Reaches.openFrame hopen ht ?_
  rw [State.writeSp]
  generalize s.openFrame = x
  obtain ⟨found, u⟩ := x
  cases found with
  | false => exact Reaches.refl _
  | true => exact Reaches.writeFrame ht

end

/-! ## The commands -/

/-- Left alone, the launched command comes to the state that `exec` answers. -/
def Refines (i : Instr) (s : State) : Prop := ∃ t, exec i s = .next t ∧ Reaches (s.begin i) t

section
variable {s : State} {i : Instr}

/-- A command that causes no exchange (20_memory.md R52). -/
theorem refines_of_compute (hf : SeqRegs.first i s = { SeqRegs.fresh i with timer := s.params.computeTicks })
    (hseq : ∀ q, exec i { s.launch with seq := q } = exec i s) {t : State} (he : exec i s = .next t) : Refines i s := by
  refine ⟨t, he, ?_⟩
  rw [State.begin, hf]
  refine Reaches.of_ticks (State.ticks_timer { SeqRegs.fresh i with timer := s.params.computeTicks } s.launch) ⟨1, ?_⟩
  have hend := (hseq (.run (SeqRegs.fresh i))).trans he
  show computed i { s.launch with seq := .run (SeqRegs.fresh i) } = t
  rw [computed, hend]

theorem refines_writeBit (s : State) : Refines .writeBit s := by
  refine ⟨_, exec_writeBit s, Reaches.exchange (s := s.launch) rfl (by decide) ?_⟩
  exact Reaches.refl _

theorem refines_readBit (s : State) : Refines .readBit s := by
  refine ⟨_, exec_readBit s, Reaches.exchange (s := s.launch) rfl (by decide) ?_⟩
  exact Reaches.refl _

theorem refines_writeByte (s : State) : Refines .writeByte s :=
  ⟨_, exec_writeByte s, Reaches.sendByte (s := s.launch) s.data rfl rfl fun _ => Reaches.refl _⟩

theorem refines_readByte (s : State) : Refines .readByte s := by
  refine ⟨_, exec_readByte s, Reaches.receiveByte (s := s.launch) rfl rfl fun y b hy => ?_⟩
  rw [show s.line.readByte s.params = s.launch.line.readByte s.launch.params from rfl, ← hy]
  exact Reaches.refl _

theorem refines_busReset (s : State) : Refines .busReset s := by
  refine ⟨_, exec_busReset s, Reaches.openFrame (s := s.launch) opens_presence rfl ?_⟩
  rw [State.launch_openFrame]
  exact Reaches.refl _

/-- The commands that begin with a read frame: what they do once it has closed, `u`, and BusAbsent. -/
theorem begin_reaches_of_readFrame {u : State} (hf : SeqRegs.first i s = (SeqRegs.fresh i).start s.params .readReset .reset 0)
    (h : ∀ r : SeqRegs, r.cmd = i → r.timer = 0 → Reaches (r.readFrameClosed s.opened.readFrame) u) :
    Reaches (s.begin i) (if s.line.bus.reset.1 then u else s.opened.fail .busAbsent) := by
  rw [State.begin, hf]
  refine Reaches.openFrame (s := s.launch) (opens_read i) rfl ?_
  rw [State.launch_openFrame]
  cases s.line.bus.reset.1 with
  | false => exact Reaches.refl _
  | true => exact Reaches.readFrame rfl h

theorem refines_readScratchpad (s : State) : Refines .readScratchpad s := by
  refine ⟨_, exec_readScratchpad s, begin_reaches_of_readFrame rfl fun r hc _ => ?_⟩
  simp only [SeqRegs.readFrameClosed, hc]
  exact Reaches.refl _

theorem refines_isConnected (s : State) : Refines .isConnected s := by
  refine ⟨_, exec_isConnected s, begin_reaches_of_readFrame rfl fun r hc _ => ?_⟩
  simp only [SeqRegs.readFrameClosed, hc]
  exact Reaches.refl _

theorem refines_writeScratchpad (s : State) : Refines .writeScratchpad s :=
  ⟨_, rfl, Reaches.writeSp (s := s.launch) opens_write rfl⟩

/-- 45_scratchpad.md R146 after the connectivity check has passed. -/
theorem Reaches.writeBack {r : SeqRegs} (hc : r.cmd = .setResolution) (ht : r.timer = 0) :
    Reaches
      (if s.sp.getD 4 0 != s.requestedPattern then
        (s.loadWriteBack s.requestedPattern).runs (r.start s.params .writeReset .reset 0)
      else s.done true)
      (s.writeBack s.requestedPattern) := by
  rw [State.writeBack]
  cases s.sp.getD 4 0 != s.requestedPattern with
  | false => exact Reaches.refl _
  | true =>
    have h := Reaches.writeSp (s := s.loadWriteBack s.requestedPattern) (hc ▸ opens_writeBack) ht
    rwa [ite_self] at h

theorem refines_setResolution (s : State) : Refines .setResolution s := by
  refine ⟨_, exec_setResolution s, begin_reaches_of_readFrame rfl fun r hc ht => ?_⟩
  have hpat : s.requestedPattern = s.opened.readFrame.checkPad.requestedPattern := rfl
  rw [hpat]
  generalize s.opened.readFrame = u
  simp only [SeqRegs.readFrameClosed, hc]
  cases u.checkPad.padPassed with
  | false => exact Reaches.refl _
  | true => exact Reaches.writeBack (s := u.checkPad) hc ht

theorem refines_search {c : Byte}
    (h : (i, c) ∈ [(Instr.searchRom, s.params.cmdSearchRom), (Instr.searchAlarm, s.params.cmdSearchAlarm)]) :
    Refines i s := by
  have hfirst : SeqRegs.first i s = if s.ldf then { SeqRegs.fresh i with timer := s.params.computeTicks }
      else (SeqRegs.fresh i).start s.params .searchReset .reset 0 := by
    simp only [List.mem_cons, Prod.mk.injEq, List.not_mem_nil, or_false] at h
    obtain ⟨rfl, -⟩ | ⟨rfl, -⟩ := h <;> rfl
  have hcode : c = if i = .searchAlarm then s.params.cmdSearchAlarm else s.params.cmdSearchRom := by
    simp only [List.mem_cons, Prod.mk.injEq, List.not_mem_nil, or_false] at h
    obtain ⟨rfl, rfl⟩ | ⟨rfl, rfl⟩ := h <;> rfl
  cases hz : s.ldf with
  | true =>
    rw [if_pos hz] at hfirst
    refine refines_of_compute hfirst (fun q => ?_) (exec_search s h)
    rw [exec_search s h, exec_search { s.launch with seq := q } h, if_pos hz, if_pos (by exact hz)]
    rfl
  | false =>
    rw [if_neg (Bool.eq_false_iff.mp hz)] at hfirst
    refine ⟨_, exec_search s h, ?_⟩
    rw [if_neg (Bool.eq_false_iff.mp hz), State.begin, hfirst]
    refine Reaches.openFrame (s := s.launch) (opens_search i) rfl ?_
    rw [State.launch_openFrame]
    cases s.line.bus.reset.1 with
    | false => exact Reaches.refl _
    | true =>
      rw [State.searched, hcode]
      exact Reaches.search rfl

end

/-- Settles O23: every command, by its kind. -/
theorem sequencerRefinesExec : Obligations.SequencerRefinesExec := by
  intro i s
  suffices h : Refines i s by
    obtain ⟨t, he, k, hk⟩ := h
    exact ⟨k, by rw [he, hk]⟩
  cases i with
  | writeBit => exact refines_writeBit s
  | readBit => exact refines_readBit s
  | writeByte => exact refines_writeByte s
  | readByte => exact refines_readByte s
  | busReset => exact refines_busReset s
  | crcInit | crcByte | checkAddr | checkSp | searchReset => exact refines_of_compute rfl (fun _ => rfl) rfl
  | searchRom => exact refines_search (.head _)
  | searchAlarm => exact refines_search (.tail _ (.head _))
  | readScratchpad => exact refines_readScratchpad s
  | writeScratchpad => exact refines_writeScratchpad s
  | isConnected => exact refines_isConnected s
  | setResolution => exact refines_setResolution s

end Sys2Proof.Machine
end

section
/-! SUPPORT. The decoder (30_encoding.md R71, R75, R76): what `decodeOpcode` can answer, that it and `Instr.opcode` are each
other's inverse, and a launch whose byte is no opcode. -/

namespace Sys2Proof.Machine

/-- 30_encoding.md R75, R76: a byte is the opcode of the command it decodes to, or it is reserved. -/
theorem decodeOpcode_cases (op : Byte) :
    (∃ i, decodeOpcode op = .ok i ∧ op = i.opcode) ∨
      (decodeOpcode op = .error (.reservedOpcode op) ∧ (op.toNat = 0 ∨ 0x11 ≤ op.toNat)) := by
  unfold decodeOpcode
  split
  case h_17 =>
    refine .inr ⟨rfl, ?_⟩
    simp only [imp_false] at *
    omega
  all_goals exact .inl ⟨_, rfl, BitVec.eq_of_toNat_eq ‹_›⟩

@[simp] theorem decodeOpcode_opcode (i : Instr) : decodeOpcode i.opcode = .ok i := by
  cases i <;> rfl

/-- 30_encoding.md R75: "opcodes 0x01 to 0x10". -/
theorem opcode_range (i : Instr) : 0x01 ≤ i.opcode.toNat ∧ i.opcode.toNat ≤ 0x10 := by
  cases i <;> decide

theorem decodeOpcode_eq_ok_iff {op : Byte} {i : Instr} : decodeOpcode op = .ok i ↔ op = i.opcode := by
  refine ⟨fun h => ?_, fun h => h ▸ decodeOpcode_opcode i⟩
  obtain ⟨j, hj, rfl⟩ | ⟨herr, -⟩ := decodeOpcode_cases op
  · rw [Except.ok.inj (hj.symm.trans h)]
  · cases herr.symm.trans h

/-- 30_encoding.md R76: the bytes outside 0x01 to 0x10 name no command. -/
theorem decodeOpcode_reserved {op : Byte} (h : op.toNat = 0 ∨ 0x11 ≤ op.toNat) :
    decodeOpcode op = .error (.reservedOpcode op) := by
  obtain ⟨i, -, rfl⟩ | ⟨herr, -⟩ := decodeOpcode_cases op
  · have := opcode_range i
    omega
  · exact herr

/-- 30_encoding.md R79: the first byte is the whole command. -/
theorem decode_cons_eq_ok_iff {op : Byte} {tail rest : List Byte} {i : Instr} :
    decode (op :: tail) = .ok (i, rest) ↔ decodeOpcode op = .ok i ∧ tail = rest := by
  cases h : decodeOpcode op <;> simp [decode, h]

/-- 30_encoding.md R76: a write of an illegal opcode, whether or not the host waits. -/
theorem launchOpcode_illegal (s : State) {v : Byte} {e : DecodeError} (hold : Option Nat) (hd : decodeOpcode v = .error e) :
    launchOpcode v hold s = .next (s.illegalCommand v) := by
  simp only [launchOpcode, hd]

/-- An idle block with no result and FAULT set reads 0x80 (10_state.md R17). -/
theorem State.illegalCommand_status (s : State) (v : Byte) (hs : s.seq = .idle) : (s.illegalCommand v).status = 0x80 := by
  have hbusy : (s.illegalCommand v).seq.busy = false := congrArg Seq.busy hs
  have hbits : bitsByte [false, false, false, false, false, false, false, true] = 0x80 := by decide
  rw [State.status, hbusy]
  exact hbits

end Sys2Proof.Machine
end

section
/-! SUPPORT. The row of a command in 30_encoding.md R77: every command leaves the state it starts from with nothing but that
row written. -/

namespace Sys2Proof.Machine

/-- 30_encoding.md R77: `s` with what the row of `i` names taken from `t`: the registers of `writesReg`, the four results, ERR,
and the line if the command causes bus activity. SEQ is IDLE. -/
def State.rowWritten (s : State) (i : Instr) (t : State) : State :=
  { s with
    flags := { t.flags with fault := s.flags.fault }
    err := t.err
    data := if writesReg i .data then t.data else s.data
    crc := if writesReg i .crc then t.crc else s.crc
    ld := if writesReg i .ld then t.ld else s.ld
    lfd := if writesReg i .lfd then t.lfd else s.lfd
    ldf := if writesReg i .ldf then t.ldf else s.ldf
    romNo := if writesReg i (.romNo 0) then t.romNo else s.romNo
    sp := if writesReg i (.sp 0) then t.sp else s.sp
    wth := if writesReg i .wth then t.wth else s.wth
    wtl := if writesReg i .wtl then t.wtl else s.wtl
    wcfg := if writesReg i .wcfg then t.wcfg else s.wcfg
    seq := .idle
    line := if i ∈ [.crcInit, .crcByte, .checkAddr, .checkSp, .searchReset] then s.line else t.line }

/-- The row names an array as a whole. -/
theorem writesReg_romNo (i : Instr) (k : Nat) : writesReg i (.romNo k) = writesReg i (.romNo 0) := by
  cases i <;> rfl

theorem writesReg_sp (i : Instr) (k : Nat) : writesReg i (.sp k) = writesReg i (.sp 0) := by
  cases i <;> rfl

/-- A register the row does not name, STATUS and ERR apart, is not written. -/
theorem State.rowWritten_reg (s : State) (i : Instr) (t : State) {r : RegName} (hst : r ≠ .status) (herr : r ≠ .err)
    (hw : writesReg i r = false) : (s.rowWritten i t).reg r = s.reg r := by
  cases r with
  | status => exact absurd rfl hst
  | err => exact absurd rfl herr
  | cmd | addr k => rfl
  | romNo k => simp [State.reg, State.rowWritten, ← writesReg_romNo i k, hw]
  | sp k => simp [State.reg, State.rowWritten, ← writesReg_sp i k, hw]
  | data | crc | ld | lfd | ldf | wth | wtl | wcfg => simp [State.reg, State.rowWritten, hw]

/-- `t` is `s` with nothing but the row of `i` written. -/
def WithinRow (i : Instr) (s t : State) : Prop := t = s.rowWritten i t

theorem WithinRow.ite {i : Instr} {s t u : State} {b : Bool} (ht : b = true → WithinRow i s t) (hu : WithinRow i s u) :
    WithinRow i s (if b then t else u) := by
  cases b with
  | false => exact hu
  | true => exact ht rfl

/-- 45_scratchpad.md R145, R147: the end of IS_CONNECTED once its reset has found presence. -/
theorem withinRow_isConnected (s : State) (hp : s.line.bus.reset.1 = true) :
    WithinRow .isConnected s (if s.opened.readFrame.checkPad.padPassed then s.opened.readFrame.checkPad.done true
      else s.opened.readFrame.checkPad.fail .integrityFailure) := by
  obtain ⟨P, l, q, hchecked, -⟩ := s.checked_spec hp
  rw [hchecked]
  exact .ite (fun _ => rfl) rfl

/-- 45_scratchpad.md R146: the same of SET_RESOLUTION, which then writes back or does not. -/
theorem withinRow_setResolution (s : State) (pat : Byte) (hp : s.line.bus.reset.1 = true) :
    WithinRow .setResolution s (if s.opened.readFrame.checkPad.padPassed then s.opened.readFrame.checkPad.writeBack pat
      else s.opened.readFrame.checkPad.fail .integrityFailure) := by
  obtain ⟨P, l, q, hchecked, -⟩ := s.checked_spec hp
  refine .ite (fun _ => ?_) (hchecked ▸ rfl)
  by_cases h : s.opened.readFrame.checkPad.sp[4] = pat
  · rw [State.writeBack_same _ h, hchecked]
    rfl
  · obtain ⟨l', again, last, hback, -⟩ := State.writeBack_changed _ h
    rw [hback, hchecked]
    rfl

theorem exec_search_withinRow {i : Instr} (s : State) (hi : i ∈ [Instr.searchRom, .searchAlarm]) :
    ∃ t, exec i s = .next t ∧ WithinRow i s t := by
  obtain ⟨p, ok, e, a, m, z, R, l, h, -⟩ := exec_search_frame s hi
  refine ⟨_, h, ?_⟩
  simp only [List.mem_cons, List.not_mem_nil, or_false] at hi
  obtain rfl | rfl := hi <;> rfl

/-- 30_encoding.md R77, for every command from every state. -/
theorem exec_withinRow (i : Instr) (s : State) : ∃ t, exec i s = .next t ∧ WithinRow i s t := by
  cases i with
  | writeBit => exact ⟨_, exec_writeBit s, rfl⟩
  | readBit => exact ⟨_, exec_readBit s, rfl⟩
  | writeByte => exact ⟨_, exec_writeByte s, rfl⟩
  | readByte => exact ⟨_, exec_readByte s, rfl⟩
  | busReset => exact ⟨_, exec_busReset s, .ite (fun _ => rfl) rfl⟩
  | crcInit | crcByte | searchReset => exact ⟨_, rfl, rfl⟩
  | checkAddr => exact ⟨_, exec_checkAddr s, rfl⟩
  | checkSp => exact ⟨_, exec_checkSp s, rfl⟩
  | searchRom | searchAlarm => exact exec_search_withinRow s (by decide)
  | readScratchpad => exact ⟨_, exec_readScratchpad s, .ite (fun _ => rfl) rfl⟩
  | writeScratchpad => exact ⟨_, exec_writeScratchpad s, .ite (fun _ => rfl) rfl⟩
  | isConnected => exact ⟨_, exec_isConnected s, .ite (withinRow_isConnected s) rfl⟩
  | setResolution => exact ⟨_, exec_setResolution s, .ite (withinRow_setResolution s _) rfl⟩

end Sys2Proof.Machine
end

section
/-! PROOFS. The statements about the encoding (30_encoding.md). -/

namespace Sys2Proof.Machine

/-- Settles O2: only a list with a first byte decodes, and that byte decodes to the command whose opcode it is. -/
theorem decodeIsTheInverseOfEncode : Obligations.DecodeIsTheInverseOfEncode := by
  intro bytes i rest
  have henc : encode i ++ rest = i.opcode :: rest := rfl
  rw [henc]
  cases bytes with
  | nil => simp [decode]
  | cons op tail => rw [decode_cons_eq_ok_iff, decodeOpcode_eq_ok_iff, List.cons.injEq]

/-- Settles O22: the state answered is the one before with the command's row written. -/
theorem commandsWriteOnlyTheirRegisters : Obligations.CommandsWriteOnlyTheirRegisters := by
  intro i s
  obtain ⟨t, hexec, hrow⟩ := exec_withinRow i s
  rw [hrow] at hexec
  exact ⟨_, hexec, fun r hst herr hw => s.rowWritten_reg i t hst herr hw, rfl, rfl, rfl, rfl, rfl, rfl, rfl,
    fun hfree => if_pos hfree⟩

/-- Settles O1: the sixteen rows by value, and no byte but an opcode decodes. -/
theorem opcodeMap : Obligations.OpcodeMap := by
  refine ⟨rfl, rfl, rfl, rfl, rfl, rfl, rfl, rfl, rfl, rfl, rfl, rfl, rfl, rfl, rfl, rfl, fun op => ⟨?_, fun h => ?_⟩⟩
  · rintro ⟨i, hi⟩
    rw [decodeOpcode_eq_ok_iff.1 hi]
    exact opcode_range i
  · obtain ⟨i, hi, -⟩ | ⟨-, hres⟩ := decodeOpcode_cases op
    · exact ⟨i, hi⟩
    · omega

/-- Settles O6: the byte does not decode, so the step is `State.illegalCommand` on the state without the event. -/
theorem illegalOpcodeIsRecorded : Obligations.IllegalOpcodeIsRecorded := by
  intro s v h q hn hs hq hv
  refine ⟨(s.taken ⟨.write 0x00 v, h⟩ q).illegalCommand v, ?_, rfl, rfl, State.illegalCommand_status _ v hs⟩
  rw [step_write_cmd hn hs hq, launchOpcode_illegal _ h (decodeOpcode_reserved hv)]

/-- Settles O52: the comparisons of bytes are those of their unsigned values, and the pattern follows the clamped number. -/
theorem resolutionSelectsThePattern : Obligations.ResolutionSelectsThePattern := by
  have hclamp : ∀ r : Byte, clampResolution r = if r.toNat < 9 then 9 else if 12 < r.toNat then 12 else r := fun _ => rfl
  refine ⟨hclamp, fun _ => rfl, fun r => ?_⟩
  rw [hclamp]
  split_ifs with hlow hhigh
  · decide
  · decide
  · omega

end Sys2Proof.Machine
end

section
/-! PROOFS. Every step keeps the invariant (40_signal_primitives.md R96, 60_exceptions.md R174, R176,
70_reset_and_hazards.md R190): what an event does to it while idle and while a command runs, then the step. -/

namespace Sys2Proof.Machine

/-! ## What busy accesses change -/

/-- 10_state.md R35: a read while busy changes the read value and the count of unspecified reads only. -/
theorem State.busyRead_changes (s : State) (a : BitVec 6) :
    ∃ (d : Byte) (n : Nat), s.busyRead a = { s with rdata := d, freeReads := n } := by
  unfold State.busyRead
  split <;> exact ⟨_, _, rfl⟩

/-- 10_state.md R35: a write while busy is recorded as misuse, or does nothing at a reserved address. -/
theorem State.busyWrite_cases (s : State) (a : BitVec 6) : s.busyWrite a = s.misuse ∨ s.busyWrite a = s := by
  unfold State.busyWrite
  split
  · exact .inl rfl
  · exact .inr rfl

variable {s t : State}

/-! ## Launches and resets -/

/-- 40_signal_primitives.md R96: an idle block has released the line. -/
theorem State.Inv.released_of_idle (h : s.Inv) (hs : s.seq = .idle) : s.line.owOe = false := by
  have hseq := h.seq
  unfold State.seqInv at hseq
  rwa [hs] at hseq

/-- 60_exceptions.md R176: a whole command ends idle and released, with OK or an error but not both. -/
theorem exec_inv (i : Instr) (hn : s.rstIn = false) (ho : s.line.owOe = false) (he : exec i s = .next t) : t.Inv := by
  obtain ⟨_, _, _, _, _, _, _, _, _, _, _, _, _, _, _, _, hexec, hok, hmal, hrel⟩ := exec_effects i s
  rw [hexec] at he
  cases he
  exact ⟨hrel ho, hok, hmal, notHeld hn⟩

/-- 10_state.md R17, R18: a command left running has reported nothing yet, and its first exchange ends released. -/
theorem State.begin_inv (i : Instr) (hn : s.rstIn = false) (ho : s.line.owOe = false) : (s.begin i).Inv where
  seq := ⟨endsReleased_first i s ho, rfl, rfl⟩
  okNoError _ := rfl
  notMalformed := ErrCode.noConfusion
  held := notHeld hn

theorem State.illegalCommand_inv (v : Byte) (hn : s.rstIn = false) (hs : s.seq = .idle) (ho : s.line.owOe = false) :
    (s.illegalCommand v).Inv where
  seq := by
    unfold State.seqInv
    simpa only [State.illegalCommand, hs] using ho
  okNoError := nofun
  notMalformed := ErrCode.noConfusion
  held := notHeld hn

theorem launchOpcode_inv {v : Byte} {hold : Option Nat} (hn : s.rstIn = false) (hs : s.seq = .idle)
    (ho : s.line.owOe = false) (he : launchOpcode v hold s = .next t) : t.Inv := by
  cases hd : decodeOpcode v with
  | error e =>
    rw [launchOpcode_illegal s hold hd] at he
    cases he
    exact State.illegalCommand_inv v hn hs ho
  | ok i =>
    cases hold with
    | none =>
      rw [launchOpcode_waiting s hd] at he
      exact exec_inv (s := { s with cmd := v }) i hn ho he
    | some k =>
      rw [launchOpcode_running s k hd] at he
      cases he
      exact State.begin_inv (s := { s with cmd := v }) i hn ho

/-- 70_reset_and_hazards.md R190: an asserted reset input clears the block, wherever a command stands. -/
theorem State.Inv.setReset (h : s.Inv) (asserted : Bool) : (s.setReset asserted).Inv := by
  cases asserted with
  | false => exact h
  | true => exact s.hwReset_inv true s.hostWait s.hostQ { s.line with owOe := false } rfl

/-! ## Events -/

theorem idleEvent_inv {e : PortEvent} (h : s.Inv) (hn : s.rstIn = false) (hs : s.seq = .idle)
    (he : idleEvent e s = .next t) : t.Inv := by
  obtain ⟨op, hold⟩ := e
  cases op with
  | write a v =>
    by_cases ha : a = 0x00
    · have hlaunch : launchOpcode v hold s = .next t := (if_pos ha).symm.trans he
      exact launchOpcode_inv hn hs (h.released_of_idle hs) hlaunch
    · have hwrite : .next (s.writeReg a v) = Host.Outcome.next t := (if_neg ha).symm.trans he
      cases hwrite
      obtain ⟨_, _, _, _, _, _, _, _, _, _, hw⟩ := s.writeReg_changes a v
      rw [hw]
      exact h.of_fields rfl rfl rfl rfl hn
  | read a =>
    cases he
    exact h.of_fields rfl rfl rfl rfl hn
  | resetInput asserted =>
    cases he
    exact h.setReset asserted
  | busChange b =>
    cases he
    exact h.of_fields rfl rfl rfl rfl hn

theorem busyEvent_inv (e : PortEvent) (h : s.Inv) (hn : s.rstIn = false) : (busyEvent e s).Inv := by
  obtain ⟨op, hold⟩ := e
  cases op with
  | write a v =>
    show (s.busyWrite a).Inv
    obtain hw | hw := s.busyWrite_cases a
    · rw [hw]
      exact h.of_fields rfl rfl rfl rfl hn
    · rwa [hw]
  | read a =>
    show (s.busyRead a).Inv
    obtain ⟨_, _, hr⟩ := s.busyRead_changes a
    rw [hr]
    exact h.of_fields rfl rfl rfl rfl hn
  | resetInput asserted => exact h.setReset asserted
  | busChange b => exact h.of_fields rfl rfl rfl rfl hn

/-! ## Steps -/

theorem heldStep_inv (s : State) : (heldStep s).Inv := by
  obtain ⟨b, w, q, l, hheld, ho, -⟩ := heldStep_spec s
  rw [hheld]
  exact s.hwReset_inv b w q l ho

theorem idleStep_inv (h : s.Inv) (hn : s.rstIn = false) (hs : s.seq = .idle) (he : idleStep s = .next t) : t.Inv := by
  unfold idleStep at he
  split at he
  next =>
    cases he
    exact h
  next e q _ => exact idleEvent_inv (s := s.taken e q) (h.of_fields rfl rfl rfl rfl hn) hn hs he

theorem busyStep_inv (h : s.Inv) (hn : s.rstIn = false) : (busyStep s).Inv := by
  unfold busyStep
  split
  next e q _ _ => exact busyEvent_inv (s := s.taken e q) e (h.of_fields rfl rfl rfl rfl hn) hn
  next k _ => exact (State.tick_effect _).inv (h.of_fields rfl rfl rfl rfl hn)
  next => exact s.tick_effect.inv h
  next => exact s.tick_effect.inv h

/-- Settles O16, by what the step is: an event of a block held in reset, one of an idle block, or one or a tick of a running
command. -/
theorem stepKeepsTheInvariant : Obligations.StepKeepsTheInvariant := by
  intro s t h he
  cases hn : s.rstIn with
  | true =>
    rw [step_held hn] at he
    cases he
    exact heldStep_inv s
  | false =>
    obtain hs | ⟨r, hs⟩ := s.seq.idle_or_run
    · rw [step_idle hn hs] at he
      exact idleStep_inv h hn hs he
    · rw [step_run hn hs] at he
      cases he
      exact busyStep_inv h hn

end Sys2Proof.Machine
end

section
/-! SUPPORT. What the read slots answer on the two kinds of bus (20_memory.md R42, R45, R47): a scripted bus hands out its
answers in order, and a line without devices reads as ones. -/

namespace Sys2Proof.Machine

variable (p : Params) (l : Line)

/-- 41_transport.md R103: the first of several read slots takes one answer off the bus, the others go on with what is left. -/
theorem Line.readBits_succ_of_read {b : Bool} {bus : Bus} (h : l.bus.read = (b, bus)) (k : Nat) :
    ∃ m : Line, m.bus = bus ∧ l.readBits p (k + 1) = (b :: (m.readBits p k).1, (m.readBits p k).2) := by
  refine ⟨(l.readBit p).2.delay p.dur.rBitGap, ?_, ?_⟩
  · simp [Line.readBit_eq, h]
  · simp [Line.readBits, Line.readBit_eq, h]

/-- 20_memory.md R42, R45: as many slots as there are answers in the script's front read exactly those and leave the rest. -/
theorem Line.readBits_free (bs rest : List Bool) (d : Nat) (h : l.bus = .free (bs ++ rest) d) :
    (l.readBits p bs.length).1 = bs ∧ (l.readBits p bs.length).2.bus = .free rest d := by
  induction bs generalizing l with
  | nil => exact ⟨rfl, h⟩
  | cons b bs ih =>
    have hread : l.bus.read = (b, .free (bs ++ rest) d) := by rw [h]; rfl
    obtain ⟨m, hm, hbits⟩ := l.readBits_succ_of_read p hread bs.length
    obtain ⟨hanswers, hbus⟩ := ih m hm
    rw [List.length_cons, hbits]
    exact ⟨congrArg (b :: ·) hanswers, hbus⟩

/-- 41_transport.md R103: a bus whose next answers are the bits of a byte gives that byte. -/
theorem Line.readByte_free (w : Byte) (rest : List Bool) (d : Nat) (h : l.bus = .free (byteBits w ++ rest) d) :
    (l.readByte p).1 = w ∧ (l.readByte p).2.bus = .free rest d := by
  obtain ⟨hanswers, hbus⟩ := l.readBits_free p (byteBits w) rest d h
  rw [byteBits_length] at hanswers hbus
  exact ⟨(congrArg bitsByte hanswers).trans (bitsByte_byteBits w), hbus⟩

/-- 20_memory.md R47: "1 for an empty list". -/
theorem Bus.read_noDevices : (Bus.devices []).read = (true, .devices []) := rfl

/-- 20_memory.md R47: without devices every slot reads 1. -/
theorem Line.readBits_noDevices (k : Nat) (h : l.bus = .devices []) : (l.readBits p k).1 = List.replicate k true := by
  induction k generalizing l with
  | zero => rfl
  | succ k ih =>
    have hread : l.bus.read = (true, .devices []) := by rw [h, Bus.read_noDevices]
    obtain ⟨m, hm, hbits⟩ := l.readBits_succ_of_read p hread k
    rw [hbits, ih m hm, List.replicate_succ]

theorem Line.readBit_noDevices (h : l.bus = .devices []) : (l.readBit p).1 = true := by
  rw [Line.readBit_eq, h, Bus.read_noDevices]

theorem Line.readByte_noDevices (h : l.bus = .devices []) : (l.readByte p).1 = 0xFF := by
  have hones : bitsByte (List.replicate 8 true) = 0xFF := by decide
  rw [Line.readByte, l.readBits_noDevices p 8 h, hones]

end Sys2Proof.Machine
end

section
/-! PROOFS. The statements about the transport commands (41_transport.md). -/

namespace Sys2Proof.Machine

/-- Settles O27: the trace holds the bits of the byte read, and a scripted bus gives its own byte. -/
theorem readByteStoresEightAnswers : Obligations.ReadByteStoresEightAnswers := by
  intro s
  refine ⟨(s.line.readByte s.params).1, (s.line.readByte s.params).2, exec_readByte s, Line.readByte_owOe _ _, ?_, ?_⟩
  · exact Line.readByte_trace s.params s.line
  · exact Line.readByte_free s.params s.line

/-- Settles O24, by what one write slot does to the line. -/
theorem writeBitSendsBitZero : Obligations.WriteBitSendsBitZero := by
  intro s
  rw [exec_writeBit, Line.writeBit_eq]

/-- Settles O25, by what one read slot does to the line. -/
theorem readBitStoresTheAnswer : Obligations.ReadBitStoresTheAnswer := by
  intro s
  rw [exec_readBit, Line.readBit_eq, bitByte]

/-- Settles O26, by the trace of a written byte. -/
theorem writeByteSendsEightBits : Obligations.WriteByteSendsEightBits := by
  intro s
  exact ⟨s.line.writeByte s.params s.data, exec_writeByte s, Line.writeByte_owOe _ _ _, Line.writeByte_trace _ _ _⟩

/-- Settles O30: the stored value is the bit, or the byte, of a line without devices. -/
theorem silenceReadsAsOnes : Obligations.SilenceReadsAsOnes := by
  intro s h
  refine ⟨⟨_, exec_readBit s, ?_, rfl, rfl⟩, ⟨_, exec_readByte s, ?_, rfl, rfl⟩⟩
  · exact congrArg bitByte (s.line.readBit_noDevices s.params h)
  · exact s.line.readByte_noDevices s.params h

end Sys2Proof.Machine
end

section
/-! SUPPORT. The fast-fail rule (42_reset_presence.md R112): a command whose first reset finds no presence ends there. -/

namespace Sys2Proof.Machine

variable {s : State}

/-- The counterpart of `State.opened_of_presence`: a launched command whose first reset found no presence. -/
theorem State.opened_of_noPresence (h : s.line.bus.reset.1 = false) :
    s.opened = { s with flags := s.flags.result false false false false, err := .none, line := s.opened.line } := by
  simp only [State.opened, h]

theorem exec_busReset_noPresence (h : s.line.bus.reset.1 = false) :
    exec .busReset s = .next (s.opened.fail .busAbsent) := by
  rw [exec_busReset, if_neg (Bool.eq_false_iff.mp h)]

/-- 45_scratchpad.md R143 to R147. -/
theorem exec_scratchpad_noPresence {i : Instr}
    (hi : i ∈ [Instr.readScratchpad, .writeScratchpad, .isConnected, .setResolution]) (h : s.line.bus.reset.1 = false) :
    exec i s = .next (s.opened.fail .busAbsent) := by
  have habsent := Bool.eq_false_iff.mp h
  simp only [List.mem_cons, List.not_mem_nil, or_false] at hi
  obtain rfl | rfl | rfl | rfl := hi
  · rw [exec_readScratchpad, if_neg habsent]
  · rw [exec_writeScratchpad, if_neg habsent]
  · rw [exec_isConnected, if_neg habsent]
  · rw [exec_setResolution, if_neg habsent]

/-- 44_search.md R132. -/
theorem exec_search_noPresence {i : Instr} (hi : i ∈ [Instr.searchRom, .searchAlarm]) (hldf : s.ldf = false)
    (h : s.line.bus.reset.1 = false) : exec i s = .next (s.opened.searchFailed .busAbsent) := by
  obtain ⟨c, hc⟩ : ∃ c, (i, c) ∈ [(Instr.searchRom, s.params.cmdSearchRom), (.searchAlarm, s.params.cmdSearchAlarm)] := by
    simp only [List.mem_cons, List.not_mem_nil, or_false] at hi
    obtain rfl | rfl := hi
    · exact ⟨_, .head _⟩
    · exact ⟨_, .tail _ (.head _)⟩
  rw [exec_search s hc, if_neg (Bool.eq_false_iff.mp hldf), if_neg (Bool.eq_false_iff.mp h)]

/-- What every composite command leaves without presence: BusAbsent, no result, the line after one reset, and of the other
registers at most the search state changed. -/
theorem exec_composite_noPresence {i : Instr}
    (hi : i ∈ [Instr.searchRom, .searchAlarm, .readScratchpad, .writeScratchpad, .isConnected, .setResolution])
    (hldf : i ∈ [Instr.searchRom, .searchAlarm] → s.ldf = false) (h : s.line.bus.reset.1 = false) :
    ∃ (a : BitVec 7) (m : BitVec 4) (z : Bool), exec i s = .next { s with
      flags := s.flags.result false false false false
      err := .busAbsent
      seq := .idle
      ld := a
      lfd := m
      ldf := z
      line := s.opened.line } := by
  by_cases hsearch : i ∈ [Instr.searchRom, .searchAlarm]
  · refine ⟨0, 0, false, ?_⟩
    rw [exec_search_noPresence hsearch (hldf hsearch) h, State.opened_of_noPresence h]
    rfl
  · have hpad := (List.mem_append (s := [Instr.searchRom, .searchAlarm]).mp hi).resolve_left hsearch
    refine ⟨s.ld, s.lfd, s.ldf, ?_⟩
    rw [exec_scratchpad_noPresence hpad h, State.opened_of_noPresence h]
    rfl

/-! ## A host that waits -/

/-- 30_encoding.md R80: a host that waits sees the state the command ends in. -/
theorem issue_of_exec {i : Instr} {t : State} (h : exec i { s with cmd := i.opcode } = .next t) : issue i s = t := by
  rw [issue, computed, h]

/-- 10_state.md R17: the host tests OK as bit 2 of STATUS. -/
theorem hostRead_status_ok (s : State) : (hostRead .status s).getLsbD 2 = s.flags.ok := by
  have hbits := s.byteBits_status
  simp only [byteBits, List.cons.injEq] at hbits
  obtain ⟨-, -, hok, -⟩ := hbits
  rw [hostRead, State.readReg_address s rfl]
  exact hok

/-- 46_host_sequences.md R156: a conversion request whose bus reset ends without OK goes no further. -/
theorem requestConversion_of_not_ok (res : Nat) (ms : List Nat) (h : (issue .busReset s).flags.ok = false) :
    requestConversion res ms s = (.noDevice, issue .busReset s) := by
  rw [requestConversion, hostRead_status_ok, if_neg (Bool.eq_false_iff.mp h)]

end Sys2Proof.Machine
end

section
/-! PROOFS. The statements about reset and presence (42_reset_presence.md). -/

namespace Sys2Proof.Machine

/-- Settles O31: the state of `exec_composite_noPresence`, its trace that of the reset alone. -/
theorem noPresenceEndsTheCommand : Obligations.NoPresenceEndsTheCommand := by
  intro i s hi hldf h
  obtain ⟨a, m, z, hend⟩ := exec_composite_noPresence hi hldf h
  have htrace := s.opened_trace
  rw [h] at htrace
  exact ⟨_, hend, htrace, rfl, rfl, rfl, rfl, rfl, rfl, rfl, rfl, rfl, rfl⟩

/-- Settles O28: the opening reset's answer is the whole result, either way. -/
theorem busResetReportsPresence : Obligations.BusResetReportsPresence := by
  intro s
  rw [exec_busReset, State.opened, Line.busReset_eq]
  cases s.line.bus.reset.1 with
  | false => rfl
  | true => rfl

/-- Settles O29: the reference bus answers a reset with whether it has a device. -/
theorem presenceOnTheReferenceBus : Obligations.PresenceOnTheReferenceBus := by
  intro s ds hbus
  have hreset : s.line.bus.reset.1 = !ds.isEmpty := by rw [hbus, Bus.reset_devices]
  refine ⟨_, busResetReportsPresence s, ?_⟩
  rw [hreset]
  cases ds with
  | nil => simp [Flags.result]
  | cons d ds => simp [Flags.result]

/-- Settles O57: BUS_RESET fails, so the request ends in the state it leaves. -/
theorem conversionWithoutDeviceEnds : Obligations.ConversionWithoutDeviceEnds := by
  intro s res ms h
  have hissue := issue_of_exec (exec_busReset_noPresence (s := { s with cmd := Instr.busReset.opcode }) h)
  have htrace := State.opened_trace { s with cmd := Instr.busReset.opcode }
  rw [h] at htrace
  refine ⟨_, requestConversion_of_not_ok res ms ?_, ?_⟩
  · rw [hissue]
    rfl
  · rw [hissue]
    exact ⟨htrace, rfl, rfl, rfl⟩

end Sys2Proof.Machine
end

section
/-! SUPPORT. The CRC-8 as an exclusive-or-linear map of accumulator and byte (43_crc8.md R115 to R118), the CRC of an extended
list (R117), and the two commands that drive the accumulator (R119, R120). -/

namespace Sys2Proof.Machine

/-! ## One step -/

/-- 43_crc8.md R115: a step reads its operands only through their exclusive or. -/
theorem crc8Step_eq_xor (c b : Byte) : crc8Step c b = crc8Step 0 (c ^^^ b) := by
  have hzero : 0 ^^^ (c ^^^ b) = c ^^^ b := BitVec.zero_xor
  simp only [crc8Step, hzero]

theorem crc8Step_comm (c b : Byte) : crc8Step c b = crc8Step b c := by
  rw [crc8Step_eq_xor, BitVec.xor_comm, ← crc8Step_eq_xor]

@[simp] theorem crc8Step_self (c : Byte) : crc8Step c c = 0x00 := by
  rw [crc8Step_eq_xor, BitVec.xor_self]
  decide

/-- 43_crc8.md R123: a step with the byte fixed is a bijection of the accumulator. -/
theorem crc8Step_injective_right (b : Byte) {c d : Byte} (h : crc8Step c b = crc8Step d b) : c = d :=
  crc8Step_injective_left b (by rw [crc8Step_comm b c, crc8Step_comm b d, h])

/-! ## The table against the bit-serial rounds -/

/-- 43_crc8.md R118: a round is linear over exclusive or, since both the shift and the conditional 0x8C are. -/
theorem crc8BitRound_xor : Function.Semiconj₂ crc8BitRound (· ^^^ ·) (· ^^^ ·) := by
  intro x y
  simp only [crc8BitRound, BitVec.getLsbD_xor, BitVec.ushiftRight_xor_distrib]
  generalize x >>> 1 = a
  generalize y >>> 1 = b
  cases x.getLsbD 0 <;> cases y.getLsbD 0
  · rfl
  · exact BitVec.xor_assoc a b 0x8C
  · change a ^^^ b ^^^ 0x8C = a ^^^ 0x8C ^^^ b
    ac_rfl
  · change a ^^^ b = a ^^^ 0x8C ^^^ (b ^^^ 0x8C)
    rw [BitVec.xor_comm b, BitVec.xor_assoc, ← BitVec.xor_assoc 0x8C, BitVec.xor_self, BitVec.zero_xor]

/-- 43_crc8.md R116: the two halves of the table hold eight rounds of the low and of the high nibble. -/
theorem crcTable_eq_rounds : ∀ n < 16,
    Config.crcTable.getD n 0 = crc8BitRound^[8] (BitVec.ofNat 8 n) ∧
    Config.crcTable.getD (16 + n) 0 = crc8BitRound^[8] (BitVec.ofNat 8 n <<< 4) := by
  decide

theorem byte_eq_nibbles (x : Byte) : x = (x &&& 0x0F) ^^^ (x >>> 4 <<< 4) := by
  revert x
  decide

theorem crc8Step_eq_rounds (c b : Byte) : crc8Step c b = crc8BitRound^[8] (c ^^^ b) := by
  generalize hx : c ^^^ b = x
  have hlow : (x &&& 0x0F).toNat < 16 := by
    rw [BitVec.toNat_and]
    exact Nat.and_lt_two_pow (n := 4) _ (by decide)
  have hhigh : (x >>> 4).toNat < 16 := by bv_omega
  calc crc8Step c b
    _ = crc8BitRound^[8] (x &&& 0x0F) ^^^ crc8BitRound^[8] (x >>> 4 <<< 4) := by
      simp only [crc8Step, hx, (crcTable_eq_rounds _ hlow).1, (crcTable_eq_rounds _ hhigh).2, BitVec.ofNat_toNat,
        BitVec.setWidth_eq]
    _ = crc8BitRound^[8] ((x &&& 0x0F) ^^^ (x >>> 4 <<< 4)) := (crc8BitRound_xor.iterate 8 _ _).symm
    _ = crc8BitRound^[8] x := by rw [← byte_eq_nibbles]

/-! ## Lists -/

/-- 43_crc8.md R117: the CRC of a list goes on from that of its front. -/
theorem crc8_append (front back : List Byte) : crc8 (front ++ back) = back.foldl crc8Step (crc8 front) :=
  List.foldl_append

theorem foldl_crc8Step_injective (bytes : List Byte) : Function.Injective (bytes.foldl crc8Step) := by
  induction bytes with
  | nil => exact Function.injective_id
  | cons b bytes ih => exact fun c d h => crc8Step_injective_right b (ih h)

/-- 43_crc8.md R123 (a). -/
theorem crc8_append_crc8 (bytes : List Byte) : crc8 (bytes ++ [crc8 bytes]) = 0x00 := by
  rw [crc8_append]
  exact crc8Step_self _

/-- 43_crc8.md R123 (b): while the CRC is zero, a zero byte is the CRC appended. -/
theorem crc8_replicate_zero (n : Nat) : crc8 (List.replicate n 0x00) = 0x00 := by
  induction n with
  | zero => rfl
  | succ n ih =>
    have hresidue := crc8_append_crc8 (List.replicate n 0x00)
    rwa [ih, ← List.replicate_succ'] at hresidue

/-! ## CRC_INIT and CRC_BYTE -/

variable (s : State)

theorem exec_crcInit : exec .crcInit s = .next { s with
    flags := s.flags.result false true false false, err := .none, seq := .idle, crc := 0x00 } := rfl

theorem exec_crcByte : exec .crcByte s = .next { s with
    flags := s.flags.result false true false false, err := .none, seq := .idle, crc := crc8Step s.crc s.data } := rfl

@[simp] theorem issue_crcInit_crc : (issue .crcInit s).crc = 0x00 := by
  rw [issue_of_exec (exec_crcInit _)]

@[simp] theorem issue_crcByte_crc : (issue .crcByte s).crc = crc8Step s.crc s.data := by
  rw [issue_of_exec (exec_crcByte _)]

/-- 30_encoding.md R80: what `WR <reg>, <value>` stores. -/
theorem hostWrite_eq_setReg {r : RegName} (hr : r.wf = true) (v : Byte) : hostWrite r v s = s.setReg v r := by
  simp only [hostWrite, State.writeReg, regAt_address hr]

/-- 43_crc8.md R120: one byte given to the block is one step of the accumulator. -/
theorem issue_crcByte_hostWrite_data_crc (v : Byte) : (issue .crcByte (hostWrite .data v s)).crc = crc8Step s.crc v := by
  rw [issue_crcByte_crc, hostWrite_eq_setReg s rfl]
  rfl

end Sys2Proof.Machine
end

section
/-! PROOFS. The statements about the CRC (43_crc8.md). -/

namespace Sys2Proof.Machine

/-- Settles O33: the CRC register follows `crc8Step` along the list. -/
theorem crcByteStreams : Obligations.CrcByteStreams := by
  refine ⟨exec_crcByte, fun bytes s => ?_⟩
  have hsteps := List.foldl_hom (l := bytes) (init := issue .crcInit s) State.crc
    (g₁ := fun s v => issue .crcByte (hostWrite .data v s)) (g₂ := crc8Step)
    (fun s v => (issue_crcByte_hostWrite_data_crc s v).symm)
  rw [← hsteps, issue_crcInit_crc, crc8]

/-- Settles O37: after the changed byte the accumulators differ, and no later byte brings them together. -/
theorem crcDetectsOneByteErrors : Obligations.CrcDetectsOneByteErrors := by
  refine ⟨crc8_append_crc8, crc8_replicate_zero, fun front back v w hne heq => ?_⟩
  rw [crc8_append, crc8_append] at heq
  exact hne (crc8Step_injective_left (crc8 front) (foldl_crc8Step_injective back heq))

/-- Settles O32. -/
theorem crcInitClearsTheAccumulator : Obligations.CrcInitClearsTheAccumulator := exec_crcInit

/-- Settles O34, with the CRC of ADDR written element by element. -/
theorem checkAddrComparesTheLastByte : Obligations.CheckAddrComparesTheLastByte := by
  rintro s _ _ rfl rfl
  simp only [exec_checkAddr, addressCrc_eq, decide_eq_true_eq]

/-- Settles O35, with the CRC of SP written element by element. -/
theorem checkSpTestsCrcAndZero : Obligations.CheckSpTestsCrcAndZero := by
  rintro s _ _ _ rfl rfl rfl
  rw [exec_checkSp, padCrc_eq, padNonzero_eq]

/-- Settles O36, by `crc8Step_eq_rounds`. -/
theorem tableStepIsBitSerial : Obligations.TableStepIsBitSerial := crc8Step_eq_rounds

end Sys2Proof.Machine
end

section
/-! SUPPORT. A whole search pass (44_search.md R127, R130, R131) in one record, with the link between its trace and the bus
that answered it, and the state each way a search can end leaves. -/

namespace Sys2Proof.Machine

/-! ## The trace is what the bus answers (20_memory.md R42) -/

/-- The exchanges of a list, made in order on the bus `b`, get the answers the list shows and leave the bus `b'`. -/
def Bus.Follows (p : Params) : Bus → List Exchange → Bus → Prop
  | b, [], b' => b' = b
  | b, .reset q :: tr, b' => q = b.reset.1 ∧ b.reset.2.Follows p tr b'
  | b, .write w :: tr, b' => (b.write p w).Follows p tr b'
  | b, .read q :: tr, b' => q = b.read.1 ∧ b.read.2.Follows p tr b'

/-- The search loop appends to the trace exactly what the bus answers and is told. -/
theorem State.traverse_follows (k : Nat) (lastZero : BitVec 7) (s : State) :
    ∃ tr, (State.traverse k lastZero s).2.line.trace = s.line.trace ++ tr ∧
      s.line.bus.Follows s.params tr (State.traverse k lastZero s).2.line.bus := by
  induction k generalizing lastZero s with
  | zero => exact ⟨[], (List.append_nil _).symm, rfl⟩
  | succ k ih =>
    cases hab : s.line.bus.read.1 && (s.line.readBit s.params).2.bus.read.1 with
    | true =>
      obtain ⟨ha, hb⟩ := Bool.and_eq_true_iff.mp hab
      rw [State.traverse_abort s k lastZero ha hb]
      refine ⟨[.read true, .read true], ?_, ?_⟩
      · rw [Line.readBit_eq, hb, Line.readBit_eq, ha]
        simp
      · simp only [Line.readBit_eq] at hb ⊢
        exact ⟨ha.symm, hb.symm, rfl⟩
    | false =>
      rw [State.traverse_step s k lastZero rfl rfl rfl hab]
      refine (ih _ _).elim fun tr ⟨htrace, hbus⟩ =>
        ⟨positionTrace s.line.bus.read.1 (s.line.readBit s.params).2.bus.read.1
          (s.direction (64 - k) s.line.bus.read.1 (s.line.readBit s.params).2.bus.read.1) ++ tr, htrace.trans ?_, ?_⟩
      · simp [positionTrace, Line.readBit_eq]
      · simp only [Line.readBit_eq, Line.writeBit_eq] at hbus ⊢
        exact ⟨rfl, rfl, hbus⟩

/-! ## The pass -/

/-- The two reads of 1 that end an aborted search (44_search.md R131). -/
def abortTrace (m : Nat) : List Exchange := if m = 64 then [] else [.read true, .read true]

/-- 44_search.md R127, `last_zero` at the end of a pass through all positions. -/
def lastZeroOf (ans : Nat → Bool × Bool) (R : Address) : BitVec 7 :=
  BitVec.ofNat 7 (lastPosition 0 ((List.range 64).filter (zeroAt ans R)))

/-- 44_search.md R127, R130: a pass through positions 1 to `m` that reads `ans n` at position `n`, with `LD` and `ROM_NO` as
they were before, ends with the directions `R` in `ROM_NO`, `v` in `LFD` and the line `l`. -/
structure State.SearchPass (s : State) (c : Byte) (ans : Nat → Bool × Bool) (m : Nat) (v : BitVec 4) (R : Address)
    (l : Line) : Prop where
  le : m ≤ 64
  searched : s.searched c =
    (if m = 64 then some (lastZeroOf ans R) else none,
      { s.opened with lfd := v, romNo := R, line := l })
  released : l.owOe = false
  trace : l.trace = s.line.trace ++ [.reset s.line.bus.reset.1] ++ txByte c ++
    (positionsTrace ans R (List.range m) ++ abortTrace m)
  bus : (s.opened.line.writeByte s.params c).bus.Follows s.params (positionsTrace ans R (List.range m) ++ abortTrace m) l.bus
  direction : ∀ n, 1 ≤ n → n ≤ m → ans n ≠ (true, true) ∧
    abit R n =
      if (ans n).1 ≠ (ans n).2 then (ans n).1
      else if n < s.ld.toNat then abit s.romNo n
      else decide (n = s.ld.toNat)
  rest : ∀ n, m < n → n ≤ 64 → abit R n = abit s.romNo n
  lfd : m = 64 → v.toNat = lastPosition s.lfd.toNat ((List.range 8).filter (zeroAt ans R))

/-- Every search that sends its command byte is such a pass: `traverse_spec` from position 1 on. -/
theorem State.exists_searchPass (s : State) (c : Byte) : ∃ ans m v R l, s.SearchPass c ans m v R l := by
  generalize hstart : (s.opened.onLine fun l => l.writeByte s.params c) = t
  have htrace : t.line.trace = s.line.trace ++ [.reset s.line.bus.reset.1] ++ txByte c := by
    rw [← hstart, State.onLine_line, Line.writeByte_trace, State.opened_trace]
  have hreleased : t.line.owOe = false := by rw [← hstart]; exact Line.writeByte_owOe _ _ _
  obtain ⟨ans, m, v, R, l, -, hm, hend, hl, hltrace, hdir, hrest, hlfd⟩ :=
    State.traverse_spec 64 (Nat.le_refl _) 0 t hreleased
  obtain ⟨tr, htr, hbus⟩ := State.traverse_follows 64 0 t
  simp only [Nat.sub_self, Nat.sub_zero, ← List.range_eq_range', List.append_assoc, hend] at hltrace hdir hrest hlfd htr hbus
  obtain rfl := List.append_cancel_left (htr.symm.trans hltrace)
  subst hstart
  refine ⟨ans, m, v, R, l, hm, ?_, hl, ?_, hbus, hdir, fun n h1 h2 => hrest n (by omega) h2 (.inr h1), hlfd⟩
  · rw [State.searched, hend, Nat.sub_self, ← List.range_eq_range']
    rfl
  · rw [hltrace, htrace]
    rfl

/-! ## The end of the command -/

/-- The last of the positions 1 to `k` that pass a test, `d` when none does. -/
theorem lastPosition_filter_range (d k : Nat) (f : Nat → Bool) :
    (lastPosition d ((List.range k).filter f) = d ∧ ∀ j < k, f j = false) ∨
      ∃ j < k, lastPosition d ((List.range k).filter f) = j + 1 ∧ f j = true ∧ ∀ i < k, f i = true → i ≤ j := by
  induction k with
  | zero => exact .inl ⟨rfl, fun j hj => absurd hj (Nat.not_lt_zero j)⟩
  | succ k ih =>
    rw [List.range_succ, List.filter_append]
    cases hk : f k with
    | true => exact .inr ⟨k, Nat.lt_succ_self k, by simp [lastPosition, hk], hk, fun i hi _ => Nat.le_of_lt_succ hi⟩
    | false =>
      have hsame : (List.range k).filter f ++ [k].filter f = (List.range k).filter f := by simp [hk]
      rw [hsame]
      have hlt : ∀ i < k + 1, f i = true → i < k := fun i hi hf =>
        (Nat.lt_succ_iff_lt_or_eq.mp hi).resolve_right fun h => by simp [h, hk] at hf
      obtain ⟨hd, hnone⟩ | ⟨j, hj, hlast, hf, hmax⟩ := ih
      · refine .inl ⟨hd, fun j hj => Bool.eq_false_iff.mpr fun hf => ?_⟩
        exact Bool.eq_false_iff.mp (hnone j (hlt j hj hf)) hf
      · exact .inr ⟨j, Nat.lt_succ_of_lt hj, hlast, hf, fun i hi hfi => hmax i (hlt i hi hfi) hfi⟩

/-- Every position fits the seven bits of LD. -/
theorem lastZeroOf_toNat (ans : Nat → Bool × Bool) (R : Address) :
    (lastZeroOf ans R).toNat = lastPosition 0 ((List.range 64).filter (zeroAt ans R)) := by
  rw [lastZeroOf, BitVec.toNat_ofNat]
  refine Nat.mod_eq_of_lt ?_
  obtain ⟨h, -⟩ | ⟨j, hj, h, -⟩ := lastPosition_filter_range 0 64 (zeroAt ans R) <;> omega

variable {s : State} {i : Instr} {c : Byte} {ans : Nat → Bool × Bool} {m : Nat} {v : BitVec 4} {R : Address} {l : Line}

/-- 44_search.md R127 step 5: a search that has gone through all 64 positions. -/
theorem exec_search_found
    (hi : (i, c) ∈ [(Instr.searchRom, s.params.cmdSearchRom), (.searchAlarm, s.params.cmdSearchAlarm)])
    (hldf : s.ldf = false) (hp : s.line.bus.reset.1 = true) (h : s.SearchPass c ans 64 v R l) :
    exec i s = .next { s with
      flags := s.flags.result true true false false
      err := .none
      seq := .idle
      ld := lastZeroOf ans R
      lfd := v
      ldf := decide (lastZeroOf ans R = 0)
      romNo := R
      line := l } := by
  rw [exec_search s hi, if_neg (Bool.eq_false_iff.mp hldf), if_pos hp, h.searched, if_pos rfl,
    State.opened_of_presence s hp]
  simp only [State.searchFound, hldf, Bool.false_or]
  rfl

/-- 44_search.md R131: one that was aborted. -/
theorem exec_search_aborted
    (hi : (i, c) ∈ [(Instr.searchRom, s.params.cmdSearchRom), (.searchAlarm, s.params.cmdSearchAlarm)])
    (hldf : s.ldf = false) (hp : s.line.bus.reset.1 = true) (hnone : (s.searched c).1 = none)
    (hend : (s.searched c).2 = { s.opened with lfd := v, romNo := R, line := l }) :
    exec i s = .next { s with
      flags := s.flags.result true false false false
      err := .searchAborted
      seq := .idle
      ld := 0
      lfd := 0
      ldf := false
      romNo := R
      line := l } := by
  rw [exec_search s hi, if_neg (Bool.eq_false_iff.mp hldf), if_pos hp, hnone, hend, State.opened_of_presence s hp]
  rfl

/-- 44_search.md R128, R129: each search has its command byte. -/
theorem exists_searchByte (hi : i ∈ [Instr.searchRom, .searchAlarm]) :
    ∃ c, (i, c) ∈ [(Instr.searchRom, s.params.cmdSearchRom), (.searchAlarm, s.params.cmdSearchAlarm)] := by
  simp only [List.mem_cons, List.not_mem_nil, or_false] at hi
  obtain rfl | rfl := hi
  · exact ⟨_, .head _⟩
  · exact ⟨_, .tail _ (.head _)⟩

/-- 44_search.md R133. -/
theorem exec_search_exhausted (hi : i ∈ [Instr.searchRom, .searchAlarm]) (hldf : s.ldf = true) :
    exec i s = .next { s with flags := s.flags.result false false false false, err := .none, seq := .idle } := by
  obtain ⟨c, hc⟩ := exists_searchByte (s := s) hi
  rw [exec_search s hc, if_pos hldf]
  rfl

theorem exec_searchReset (s : State) : exec .searchReset s = .next { s with
    flags := s.flags.result false true false false, err := .none, seq := .idle, ld := 0, lfd := 0, ldf := false } := rfl

end Sys2Proof.Machine
end

section
/-! PROOFS. The statements about one search on any bus (44_search.md). -/

namespace Sys2Proof.Machine

/-- Settles O41: the pass of `State.exists_searchPass`, found or aborted by how far it went. -/
theorem searchFollowsTheTree : Obligations.SearchFollowsTheTree := by
  intro s i c hi hldf hp
  obtain ⟨ans, m, v, R, l, hpass⟩ := s.exists_searchPass c
  have htrace := hpass.trace
  rw [hp, ← List.append_assoc] at htrace
  by_cases hm : m = 64
  · subst hm
    refine ⟨ans, 64, _, exec_search_found hi hldf hp hpass, hpass.le, rfl, hpass.released, htrace, hpass.direction,
      hpass.rest, fun h => absurd h (Nat.lt_irrefl 64), fun _ => ⟨lastZeroOf_toNat ans R, hpass.lfd rfl, rfl⟩⟩
  · have hsearched := hpass.searched
    rw [if_neg hm] at hsearched
    refine ⟨ans, m, _, exec_search_aborted hi hldf hp (congrArg Prod.fst hsearched) (congrArg Prod.snd hsearched), hpass.le,
      ?_, hpass.released, htrace, hpass.direction, hpass.rest, fun _ => ⟨rfl, rfl, rfl⟩, fun h => absurd h hm⟩
    simp only [hm, decide_false, if_false]

/-- Settles O38. -/
theorem searchResetClearsTheState : Obligations.SearchResetClearsTheState := exec_searchReset

/-- Settles O39, by the first test of the search. -/
theorem exhaustedSearchTouchesNothing : Obligations.ExhaustedSearchTouchesNothing :=
  fun _ _ hi hldf => exec_search_exhausted hi hldf

/-- Settles O40: the search fails on the state its opening reset leaves. -/
theorem searchWithoutPresenceClears : Obligations.SearchWithoutPresenceClears := by
  intro i s hi hldf hp
  rw [exec_search_noPresence hi hldf hp, State.opened, Line.busReset_eq, hp]
  rfl

end Sys2Proof.Machine
end

section
/-! SUPPORT. A search pass on the reference bus (20_memory.md R47): which devices still take part at a position, what they
answer there, and that some device is left at every position. -/

namespace Sys2Proof.Machine

/-! ## Addresses by their first positions -/

/-- Two addresses have the same bits at all positions before `n`. -/
def agreesBelow (n : Nat) (A B : Address) : Prop := ∀ m, 1 ≤ m → m < n → abit A m = abit B m

theorem agreesBelow_one (A B : Address) : agreesBelow 1 A B := fun _ h1 h2 => absurd h2 (Nat.not_lt.mpr h1)

theorem agreesBelow_self (n : Nat) (A : Address) : agreesBelow n A A := fun _ _ _ => rfl

theorem agreesBelow.symm {n : Nat} {A B : Address} (h : agreesBelow n A B) : agreesBelow n B A :=
  fun m h1 h2 => (h m h1 h2).symm

theorem agreesBelow.trans {n : Nat} {A B C : Address} (h : agreesBelow n A B) (h' : agreesBelow n B C) : agreesBelow n A C :=
  fun m h1 h2 => (h m h1 h2).trans (h' m h1 h2)

theorem agreesBelow.mono {n k : Nat} {A B : Address} (h : agreesBelow n A B) (hk : k ≤ n) : agreesBelow k A B :=
  fun m h1 h2 => h m h1 (Nat.lt_of_lt_of_le h2 hk)

theorem agreesBelow_succ {n : Nat} {A B : Address} (hn : 1 ≤ n) :
    agreesBelow (n + 1) A B ↔ agreesBelow n A B ∧ abit A n = abit B n := by
  refine ⟨fun h => ⟨h.mono (Nat.le_succ n), h n hn (Nat.lt_succ_self n)⟩, fun ⟨h, hbit⟩ m h1 h2 => ?_⟩
  obtain hm | rfl := Nat.lt_succ_iff_lt_or_eq.mp h2
  · exact h m h1 hm
  · exact hbit

theorem agreesBelow_all {A B : Address} (h : agreesBelow 65 A B) : A = B :=
  address_ext fun n h1 h2 => h n h1 (Nat.lt_succ_of_le h2)

/-! ## A device at a position of a pass -/

/-- A device at position `n` of a pass that has taken the directions `R` so far: it takes part as long as its address agrees
with them, and has been selected after position 64. -/
noncomputable def Device.atPosition (R : Address) (n : Nat) (d : Device) : Device :=
  open Classical in
  { d with mode := if agreesBelow n d.rom R then (if n = 65 then .func [] else .search n .bit) else .idle }

variable {R : Address} {n : Nat} {d : Device}

@[simp] theorem Device.atPosition_rom : (d.atPosition R n).rom = d.rom := rfl

theorem Device.atPosition_of_agrees (h : agreesBelow n d.rom R) :
    d.atPosition R n = { d with mode := if n = 65 then .func [] else .search n .bit } := by
  simp only [Device.atPosition, if_pos h]

theorem Device.atPosition_of_not_agrees (h : ¬ agreesBelow n d.rom R) : d.atPosition R n = { d with mode := .idle } := by
  simp only [Device.atPosition, if_neg h]

theorem Device.atPosition_search (hn : n ≤ 64) (h : agreesBelow n d.rom R) :
    d.atPosition R n = { d with mode := .search n .bit } := by
  rw [Device.atPosition_of_agrees h, if_neg (by omega)]

/-- The first bit a device offers at a position is its own. -/
theorem Device.atPosition_offer (hn : n ≤ 64) :
    (d.atPosition R n).offer = true ↔ (agreesBelow n d.rom R → abit d.rom n = true) := by
  by_cases h : agreesBelow n d.rom R
  · rw [Device.atPosition_search hn h]
    simp [Device.offer, h]
  · rw [Device.atPosition_of_not_agrees h]
    simp [Device.offer, h]

/-- The second is its complement. -/
theorem Device.atPosition_onRead_offer (hn : n ≤ 64) :
    (d.atPosition R n).onRead.offer = true ↔ (agreesBelow n d.rom R → abit d.rom n = false) := by
  by_cases h : agreesBelow n d.rom R
  · rw [Device.atPosition_search hn h]
    simp [Device.offer, Device.onRead, h]
  · rw [Device.atPosition_of_not_agrees h]
    simp [Device.offer, Device.onRead, h]

/-- The direction written decides whether it goes on. -/
theorem Device.atPosition_next (p : Params) (hn : 1 ≤ n) (hn' : n ≤ 64) :
    (d.atPosition R n).onRead.onRead.onWrite p (abit R n) = d.atPosition R (n + 1) := by
  have hsucc := agreesBelow_succ (A := d.rom) (B := R) hn
  by_cases h : agreesBelow n d.rom R
  · rw [Device.atPosition_search hn' h]
    by_cases hbit : abit R n = abit d.rom n
    · rw [Device.atPosition_of_agrees (hsucc.mpr ⟨h, hbit.symm⟩)]
      simp [Device.onRead, Device.onWrite, hbit]
    · rw [Device.atPosition_of_not_agrees fun h' => hbit (hsucc.mp h').2.symm]
      simp [Device.onRead, Device.onWrite, hbit]
  · rw [Device.atPosition_of_not_agrees h, Device.atPosition_of_not_agrees fun h' => h (hsucc.mp h').1]
    rfl

/-! ## The bus at a position of a pass -/

/-- 20_memory.md R47: the pair of bits that addresses still agreeing with `R` answer at position `n`, wired-AND. -/
def Answers (roms : List Address) (R : Address) (n : Nat) (x : Bool × Bool) : Prop :=
  (x.1 = true ↔ ∀ A ∈ roms, agreesBelow n A R → abit A n = true) ∧
  (x.2 = true ↔ ∀ A ∈ roms, agreesBelow n A R → abit A n = false)

/-- The reference bus at position `n` of a pass. -/
noncomputable def busAt (R : Address) (n : Nat) (ds : List Device) : Bus := .devices (ds.map (Device.atPosition R n))

variable {p : Params} {ds : List Device} {ans : Nat → Bool × Bool} {b : Bus}

theorem busAt_reads (hn : n ≤ 64) :
    Answers (ds.map Device.rom) R n ((busAt R n ds).read.1, (busAt R n ds).read.2.read.1) := by
  constructor <;> simp [busAt, Bus.read_devices, Device.atPosition_offer hn, Device.atPosition_onRead_offer hn]

/-- One position on the reference bus: the answers, and the devices that go on. -/
theorem busAt_follows_position {x y : Bool} {tr : List Exchange} (hn : 1 ≤ n) (hn' : n ≤ 64)
    (h : (busAt R n ds).Follows p (positionTrace x y (abit R n) ++ tr) b) :
    Answers (ds.map Device.rom) R n (x, y) ∧ (busAt R (n + 1) ds).Follows p tr b := by
  obtain ⟨rfl, rfl, hrest⟩ := h
  refine ⟨busAt_reads hn', ?_⟩
  have hnext : (busAt R n ds).read.2.read.2.write p (abit R n) = busAt R (n + 1) ds := by
    simp only [busAt, Bus.read_devices, Bus.write, List.map_map]
    congr 2
    funext d
    exact Device.atPosition_next p hn hn'
  rw [← hnext]
  exact hrest

/-- The same for the first `m` positions. -/
theorem busAt_follows_positions (m : Nat) (hm : m ≤ 64) {tr : List Exchange}
    (h : (busAt R 1 ds).Follows p (positionsTrace ans R (List.range m) ++ tr) b) :
    (∀ n, 1 ≤ n → n ≤ m → Answers (ds.map Device.rom) R n (ans n)) ∧ (busAt R (m + 1) ds).Follows p tr b := by
  induction m generalizing tr with
  | zero => exact ⟨fun n h1 h2 => by omega, h⟩
  | succ m ih =>
    rw [List.range_succ, positionsTrace, List.flatMap_append, List.flatMap_singleton, List.append_assoc] at h
    obtain ⟨hans, hm'⟩ := ih (by omega) h
    obtain ⟨hlast, hrest⟩ := busAt_follows_position (by omega) hm hm'
    refine ⟨fun n h1 h2 => ?_, hrest⟩
    obtain hlt | rfl := Nat.lt_or_eq_of_le h2
    · exact hans n h1 (by omega)
    · exact hlast

/-! ## A pass never loses the last device -/

variable {roms : List Address} {x : Bool × Bool}

/-- Only silence answers both bits 1 (44_search.md R131). -/
theorem Answers.ne_both {A : Address} (h : Answers roms R n x) (hA : A ∈ roms) (hag : agreesBelow n A R) :
    x ≠ (true, true) := by
  rintro rfl
  exact Bool.noConfusion ((h.1.mp rfl A hA hag).symm.trans (h.2.mp rfl A hA hag))

/-- A first bit of 0 comes from an address with a 0. -/
theorem Answers.exists_zero (h : Answers roms R n x) (hx : x.1 = false) :
    ∃ A ∈ roms, agreesBelow n A R ∧ abit A n = false := by
  simpa [hx] using h.1

/-- A second bit of 0 comes from an address with a 1. -/
theorem Answers.exists_one (h : Answers roms R n x) (hx : x.2 = false) :
    ∃ A ∈ roms, agreesBelow n A R ∧ abit A n = true := by
  simpa [hx] using h.2

/-- Whatever direction a pass may take, some device goes along. -/
theorem Answers.exists_next {A : Address} (h : Answers roms R n x) (hn : 1 ≤ n) (hA : A ∈ roms) (hag : agreesBelow n A R)
    (hforced : x.1 ≠ x.2 → abit R n = x.1) : ∃ B ∈ roms, agreesBelow (n + 1) B R := by
  have hoffered : ∀ x1 x2 r : Bool, (x1, x2) ≠ (true, true) → (x1 ≠ x2 → r = x1) →
      r = false ∧ x1 = false ∨ r = true ∧ x2 = false := by decide
  obtain ⟨hR, hx⟩ | ⟨hR, hx⟩ := hoffered x.1 x.2 (abit R n) (h.ne_both hA hag) hforced
  · obtain ⟨B, hB, hag', hbit⟩ := h.exists_zero hx
    exact ⟨B, hB, (agreesBelow_succ hn).mpr ⟨hag', hbit.trans hR.symm⟩⟩
  · obtain ⟨B, hB, hag', hbit⟩ := h.exists_one hx
    exact ⟨B, hB, (agreesBelow_succ hn).mpr ⟨hag', hbit.trans hR.symm⟩⟩

/-- After `m` positions whose forced bits were taken, some device is left. -/
theorem exists_agreesBelow (hroms : roms ≠ []) (m : Nat) (hans : ∀ n, 1 ≤ n → n ≤ m → Answers roms R n (ans n))
    (hforced : ∀ n, 1 ≤ n → n ≤ m → (ans n).1 ≠ (ans n).2 → abit R n = (ans n).1) :
    ∃ A ∈ roms, agreesBelow (m + 1) A R := by
  induction m with
  | zero =>
    obtain ⟨A, hA⟩ := List.exists_mem_of_ne_nil roms hroms
    exact ⟨A, hA, agreesBelow_one A R⟩
  | succ m ih =>
    obtain ⟨A, hA, hag⟩ := ih (fun n h1 h2 => hans n h1 (by omega)) (fun n h1 h2 => hforced n h1 (by omega))
    exact (hans (m + 1) (by omega) (Nat.le_refl _)).exists_next (by omega) hA hag
      (hforced (m + 1) (by omega) (Nat.le_refl _))

end Sys2Proof.Machine
end

section
/-! SUPPORT. What a search command does on the reference bus (20_memory.md R47): its command byte, and the whole pass. -/

namespace Sys2Proof.Machine

variable {s : State} {i : Instr} {c : Byte} {ans : Nat → Bool × Bool} {m : Nat} {v : BitVec 4} {R : Address} {l : Line}
  {ds : List Device}

/-- 20_memory.md R47: a device that has seen a reset takes the next byte as a ROM command. -/
theorem Device.onReset_onByte (p : Params) (d : Device) : d.onReset.onByte p c = { d with mode := d.romCommand p c } := by
  rw [Device.onByte_romCmd p c d.onReset rfl]
  rfl

/-- 20_memory.md R47: after the opening reset every device has taken the command byte. -/
theorem State.opened_writeByte_bus (hbus : s.line.bus = .devices ds) :
    (s.opened.line.writeByte s.params c).bus =
      .devices (ds.map fun d => { d with mode := d.romCommand s.params c }) := by
  have hopened : s.opened.line.bus = .devices (ds.map Device.onReset) := by
    simp only [State.opened, Line.busReset_eq, hbus, Bus.reset_devices]
  rw [Line.writeByte_devices s.params _ _ c hopened]
  simp only [List.map_map, Function.comp_def, Device.onReset_onByte]

/-- Every device of the list takes part in a search with this command byte. -/
def Searching (p : Params) (c : Byte) (ds : List Device) : Prop := ∀ d ∈ ds, d.romCommand p c = .search 1 .bit

theorem searching_searchRom (p : Params) (ds : List Device) : Searching p p.cmdSearchRom ds :=
  fun _ _ => if_pos rfl

theorem searching_searchAlarm (p : Params) (ds : List Device) (h : ∀ d ∈ ds, d.alarm = true) :
    Searching p p.cmdSearchAlarm ds := by
  intro d hd
  simp [Device.romCommand, h d hd]

theorem Bus.reset_presence (hne : ds ≠ []) : (Bus.devices ds).reset.1 = true := by
  simp [Bus.reset_devices, hne]

/-- 44_search.md R135: with a device taking part the pass is complete and ends at the address of one of them. -/
theorem State.SearchPass.onDevices (h : s.SearchPass c ans m v R l) (hbus : s.line.bus = .devices ds) (hne : ds ≠ [])
    (hsearching : Searching s.params c ds) :
    m = 64 ∧ l.bus = busAt R 65 ds ∧ R ∈ ds.map Device.rom ∧
      ∀ n, 1 ≤ n → n ≤ 64 → Answers (ds.map Device.rom) R n (ans n) := by
  have hstart : (s.opened.line.writeByte s.params c).bus = busAt R 1 ds := by
    rw [State.opened_writeByte_bus hbus, busAt]
    congr 1
    refine List.map_congr_left fun d hd => ?_
    rw [hsearching d hd, Device.atPosition_search (by decide) (agreesBelow_one d.rom R)]
  have hfollows := h.bus
  rw [hstart] at hfollows
  obtain ⟨hans, hend⟩ := busAt_follows_positions m h.le hfollows
  obtain ⟨A, hA, hag⟩ := exists_agreesBelow (mt List.map_eq_nil_iff.mp hne) m hans fun n h1 h2 hforced => by
    rw [(h.direction n h1 h2).2, if_pos hforced]
  by_cases hm : m = 64
  · subst hm
    exact ⟨rfl, hend, agreesBelow_all hag ▸ hA, hans⟩
  · rw [abortTrace, if_neg hm] at hend
    obtain ⟨hx, hy, -⟩ := hend
    have hboth := busAt_reads (R := R) (ds := ds) (n := m + 1) (by have := h.le; omega)
    rw [← hx, ← hy] at hboth
    exact absurd rfl (hboth.ne_both hA hag)

/-- 44_search.md R129: devices that take no part leave the line high. -/
def Device.Silent (d : Device) : Prop := d.offer = true ∧ d.onRead = d

theorem Bus.read_silent (h : ∀ d ∈ ds, d.Silent) : (Bus.devices ds).read = (true, .devices ds) := by
  rw [Bus.read_devices, List.all_eq_true.mpr fun d hd => (h d hd).1, List.map_congr_left fun d hd => (h d hd).2, List.map_id']

/-- 20_memory.md R47: a ROM command other than a search makes a device silent, whatever it selects. -/
theorem Device.romCommand_silent (p : Params) (d : Device) (hrom : c ≠ p.cmdSearchRom)
    (halarm : ¬ (c = p.cmdSearchAlarm ∧ d.alarm = true)) : ({ d with mode := d.romCommand p c } : Device).Silent := by
  rw [Device.romCommand, if_neg hrom, if_neg halarm]
  split_ifs <;> exact ⟨rfl, rfl⟩

/-- 44_search.md R131: on a silent bus the pass ends at position 1. -/
theorem State.searched_silent {bus : Bus} (hstart : (s.opened.line.writeByte s.params c).bus = bus)
    (hread : bus.read = (true, bus)) :
    ∃ l : Line, s.searched c = (none, { s.opened with lfd := s.lfd, romNo := s.romNo, line := l }) ∧
      l.trace = s.line.trace ++ [.reset s.line.bus.reset.1] ++ txByte c ++ [.read true, .read true] := by
  have hfirst : (s.opened.line.writeByte s.params c).bus.read = (true, bus) := by rw [hstart, hread]
  have hsecond : ((s.opened.line.writeByte s.params c).readBit s.params).2.bus.read = (true, bus) := by
    simp only [Line.readBit_eq, hfirst, hread]
  refine ⟨_, State.traverse_abort (s.opened.onLine fun l => l.writeByte s.params c) 63 0 (congrArg Prod.fst hfirst)
    (congrArg Prod.fst hsecond), ?_⟩
  have htrace : ((s.opened.line.writeByte s.params c).readBit s.params).2.trace =
      s.line.trace ++ [.reset s.line.bus.reset.1] ++ txByte c ++ [.read true] := by
    rw [Line.readBit_trace, Line.readBit_eq, hfirst, Line.writeByte_trace, State.opened_trace]
  change (((s.opened.line.writeByte s.params c).readBit s.params).2.readBit s.params).2.trace = _
  rw [Line.readBit_trace, htrace, Line.readBit_eq, hsecond]
  simp

end Sys2Proof.Machine
end

section
/-! PROOFS. The statements about one search on the reference bus (44_search.md R128, R129). -/

namespace Sys2Proof.Machine

/-- The bits of the only device at a position are its own and its complement, so there is no discrepancy. -/
theorem Answers.only_ne {R : Address} {n : Nat} {x : Bool × Bool} (h : Answers [R] R n x) : x ≠ (false, false) := by
  obtain ⟨h1, h2⟩ := h
  rintro rfl
  cases hbit : abit R n <;> simp [hbit] at h1 h2

/-- Settles O42: the pass ends at the address of a device, of which there is one, and meets no discrepancy. -/
theorem searchFindsTheOnlyDevice : Obligations.SearchFindsTheOnlyDevice := by
  intro s d i hbus hldf hi
  obtain ⟨c, hc, hsearching⟩ : ∃ c, (i, c) ∈ [(Instr.searchRom, s.params.cmdSearchRom),
      (.searchAlarm, s.params.cmdSearchAlarm)] ∧ Searching s.params c [d] := by
    obtain rfl | ⟨rfl, halarm⟩ := hi
    · exact ⟨_, .head _, searching_searchRom _ _⟩
    · exact ⟨_, .tail _ (.head _), searching_searchAlarm _ _ (by simpa using halarm)⟩
  have hp : s.line.bus.reset.1 = true := by rw [hbus]; rfl
  obtain ⟨ans, m, v, R, l, hpass⟩ := s.exists_searchPass c
  obtain ⟨rfl, hl, hR, hans⟩ := hpass.onDevices hbus (List.cons_ne_nil d []) hsearching
  obtain rfl := List.mem_singleton.mp hR
  have hzero : ∀ k ≤ 64, (List.range k).filter (zeroAt ans d.rom) = [] := fun k hk => by
    refine List.filter_eq_nil_iff.mpr fun j hj => ?_
    have hj' := List.mem_range.mp hj
    simp [zeroAt, (hans (j + 1) (by omega) (by omega)).only_ne]
  have hv : v = s.lfd := BitVec.eq_of_toNat_eq (by rw [hpass.lfd rfl, hzero 8 (by decide)]; rfl)
  refine ⟨l, ?_, ?_, ?_⟩
  · rw [exec_search_found hc hldf hp hpass, lastZeroOf, hzero 64 (Nat.le_refl _), hv]
    rfl
  · rw [hl, busAt, List.map_singleton, Device.atPosition_of_agrees (agreesBelow_self 65 d.rom), if_pos rfl]
  · rw [hpass.trace]
    simp [txByte, byteBits, positionsTrace, positionTrace, abortTrace]

/-- Settles O43: after the command byte no device takes part, and the pass reads two ones at position 1. -/
theorem alarmSearchWithoutAlarmAborts : Obligations.AlarmSearchWithoutAlarmAborts := by
  intro s ds hbus hne halarm hldf hcmd
  have hp : s.line.bus.reset.1 = true := by rw [hbus, Bus.reset_presence hne]
  obtain ⟨l, hsearched, htrace⟩ := State.searched_silent (State.opened_writeByte_bus hbus)
    (Bus.read_silent (List.forall_mem_map.mpr fun d hd =>
      d.romCommand_silent s.params hcmd fun h => by simp [halarm d hd] at h))
  rw [hp] at htrace
  exact ⟨l, exec_search_aborted (.tail _ (.head _)) hldf hp (congrArg Prod.fst hsearched) (congrArg Prod.snd hsearched),
    htrace⟩

end Sys2Proof.Machine
end

section
/-! SUPPORT. The lexicographic order of addresses, and that a pass which resumes at LD takes the next address in that order
(44_search.md R135). -/

namespace Sys2Proof.Machine

/-! ## The order -/

variable {A B C : Address} {n k : Nat}

theorem agreesBelow.le_of_ne (h : agreesBelow n A B) (hk : 1 ≤ k) (hne : abit A k ≠ abit B k) : n ≤ k :=
  Nat.le_of_not_lt fun hlt => hne (h k hk hlt)

theorem addressBefore.trans (h : addressBefore A B) (h' : addressBefore B C) : addressBefore A C := by
  obtain ⟨n, hn, hn', hag, hA, hB⟩ := h
  obtain ⟨k, hk, hk', hag', hB', hC⟩ := h'
  obtain hlt | rfl | hlt := Nat.lt_trichotomy n k
  · exact ⟨n, hn, hn', agreesBelow.trans hag (agreesBelow.mono hag' hlt.le), hA, (hag' n hn hlt).symm.trans hB⟩
  · exact absurd (hB.symm.trans hB') Bool.noConfusion
  · exact ⟨k, hk, hk', agreesBelow.trans (agreesBelow.mono hag hlt.le) hag', (hag k hk hlt).trans hB', hC⟩

theorem addressBefore.asymm (h : addressBefore A B) : ¬ addressBefore B A := by
  rintro ⟨k, hk, -, hag', hB', hA'⟩
  obtain ⟨n, hn, -, hag, hA, hB⟩ := h
  have hnk : n ≤ k := agreesBelow.le_of_ne hag hk (by rw [hA', hB']; decide)
  have hkn : k ≤ n := agreesBelow.le_of_ne hag' hn (by rw [hA, hB]; decide)
  obtain rfl := Nat.le_antisymm hnk hkn
  exact absurd (hA.symm.trans hA') Bool.noConfusion

theorem addressBefore.ne (h : addressBefore A B) : A ≠ B := by
  rintro rfl
  exact h.asymm h

/-- Two addresses are ordered by the first position at which they differ. -/
theorem addressBefore_total (h : A ≠ B) : addressBefore A B ∨ addressBefore B A := by
  have hdiff : ∃ n, 1 ≤ n ∧ n ≤ 64 ∧ abit A n ≠ abit B n := by
    refine Classical.byContradiction fun hnone => h (address_ext fun n h1 h2 => ?_)
    exact Classical.byContradiction fun hne => hnone ⟨n, h1, h2, hne⟩
  obtain ⟨n, ⟨hn, hn', hne⟩, hmin⟩ := Nat.findX hdiff
  have hag : agreesBelow n A B := fun m h1 h2 =>
    Classical.byContradiction fun hm => hmin m h2 ⟨h1, (Nat.le_of_lt h2).trans hn', hm⟩
  cases hA : abit A n with
  | false => exact .inl ⟨n, hn, hn', hag, hA, by simpa [hA] using hne⟩
  | true => exact .inr ⟨n, hn, hn', hag.symm, by simpa [hA] using hne, hA⟩

/-! ## Where a pass leaves off -/

variable {roms : List Address} {R old : Address} {ld : Nat}

/-- At position `n` a pass along `R` takes 0 where an address on the bus would have gone with 1. -/
def ZeroBranch (roms : List Address) (R : Address) (n : Nat) : Prop :=
  1 ≤ n ∧ n ≤ 64 ∧ abit R n = false ∧ ∃ A ∈ roms, agreesBelow n A R ∧ abit A n = true

/-- `n` is the last such position: what `LD` records (44_search.md R130 (b)). -/
def LastZeroBranch (roms : List Address) (R : Address) (n : Nat) : Prop :=
  ZeroBranch roms R n ∧ ∀ k, ZeroBranch roms R k → k ≤ n

/-- An address after `R` leaves the path of `R` at a zero branch. -/
theorem addressBefore.zeroBranch (h : addressBefore R A) (hA : A ∈ roms) :
    ∃ n, ZeroBranch roms R n ∧ agreesBelow n A R ∧ abit A n = true := by
  obtain ⟨n, hn, hn', hag, hR, hbit⟩ := h
  exact ⟨n, ⟨hn, hn', hR, A, hA, agreesBelow.symm hag, hbit⟩, agreesBelow.symm hag, hbit⟩

/-- 44_search.md R127 step 4: wherever an address on the bus leaves the path `R` of a pass, the pass had the choice, and chose
by LD and the old directions. -/
def Chooses (roms : List Address) (ld : Nat) (old R : Address) : Prop :=
  ∀ n, 1 ≤ n → n ≤ 64 → ∀ A ∈ roms, agreesBelow n A R → abit A n ≠ abit R n →
    abit R n = if n < ld then abit old n else decide (n = ld)

/-- A pass that resumes follows the old directions before LD and takes 1 there. -/
theorem Chooses.resumes (h : Chooses roms ld old R) (hold : old ∈ roms) (hld : LastZeroBranch roms old ld) :
    agreesBelow ld R old ∧ abit R ld = true := by
  obtain ⟨⟨hld1, hld64, hbit, A, hA, hagA, hbitA⟩, -⟩ := hld
  have hag : agreesBelow ld R old := by
    intro n hn hlt
    induction n using Nat.strong_induction_on with
    | _ n ih =>
      have hbelow : agreesBelow n old R := fun m h1 h2 => (ih m h2 h1 (h2.trans hlt)).symm
      refine Classical.byContradiction fun hne => hne ?_
      have hchoice := h n hn (by omega) old hold hbelow (Ne.symm hne)
      rwa [if_pos hlt] at hchoice
  refine ⟨hag, Classical.byContradiction fun hne => hne ?_⟩
  have hchoice := h ld hld1 hld64 A hA (hagA.trans hag.symm) (by rw [hbitA]; exact Ne.symm hne)
  rw [hchoice, if_neg (Nat.lt_irrefl ld), decide_eq_true rfl]

/-- Such a pass moves on in the order. -/
theorem Chooses.after (h : Chooses roms ld old R) (hold : old ∈ roms) (hld : LastZeroBranch roms old ld) :
    addressBefore old R := by
  obtain ⟨hag, hbit⟩ := h.resumes hold hld
  obtain ⟨⟨hld1, hld64, hold0, -⟩, -⟩ := hld
  exact ⟨ld, hld1, hld64, hag.symm, hold0, hbit⟩

/-- 44_search.md R135, the tie-break: a pass takes the first of the addresses still to come. -/
theorem Chooses.least (h : Chooses roms ld old R) (hres : ld = 0 ∨ old ∈ roms ∧ LastZeroBranch roms old ld)
    (hA : A ∈ roms) (hafter : ld = 0 ∨ addressBefore old A) (hne : A ≠ R) : addressBefore R A := by
  refine (addressBefore_total hne).resolve_left ?_
  rintro ⟨n, hn, hn', hag, hA0, hR1⟩
  have hchoice := h n hn hn' A hA hag (by rw [hA0, hR1]; decide)
  rw [hR1] at hchoice
  obtain rfl | ⟨hold, hld⟩ := hres
  · rw [if_neg (Nat.not_lt_zero n), decide_eq_false (by omega)] at hchoice
    exact absurd hchoice Bool.noConfusion
  have ⟨⟨hld1, _, hold0, _⟩, hmax⟩ := hld
  have hbefore : addressBefore old A := hafter.resolve_left (by omega)
  obtain ⟨hagR, -⟩ := h.resumes hold hld
  by_cases hlt : n < ld
  · rw [if_pos hlt] at hchoice
    exact hbefore.asymm ⟨n, hn, hn', agreesBelow.trans hag (hagR.mono hlt.le), hA0, hchoice.symm⟩
  · rw [if_neg hlt] at hchoice
    obtain rfl := of_decide_eq_true hchoice.symm
    obtain ⟨k, hk, hagk, hAk⟩ := hbefore.zeroBranch hA
    have ⟨hk1, _, holdk, _⟩ := hk
    have hnk : n ≤ k := (agreesBelow.trans hag hagR).le_of_ne hk1 (by rw [hAk, holdk]; decide)
    obtain rfl := Nat.le_antisymm hnk (hmax k hk)
    exact absurd (hA0.symm.trans hAk) Bool.noConfusion

/-! ## What a pass on the reference bus chooses and records -/

variable {s : State} {c : Byte} {ans : Nat → Bool × Bool} {m : Nat} {v : BitVec 4} {l : Line}

theorem State.SearchPass.chooses (h : s.SearchPass c ans 64 v R l) (hR : R ∈ roms)
    (hans : ∀ n, 1 ≤ n → n ≤ 64 → Answers roms R n (ans n)) : Chooses roms s.ld.toNat s.romNo R := by
  intro n hn hn' A hA hag hne
  obtain ⟨h1, h2⟩ := hans n hn hn'
  have hx : (ans n).1 = false := Bool.eq_false_iff.mpr fun hx =>
    hne ((h1.mp hx A hA hag).trans (h1.mp hx R hR (agreesBelow_self n R)).symm)
  have hy : (ans n).2 = false := Bool.eq_false_iff.mpr fun hy =>
    hne ((h2.mp hy A hA hag).trans (h2.mp hy R hR (agreesBelow_self n R)).symm)
  have hdirection := (h.direction n hn hn').2
  rwa [hx, hy, if_neg (by decide)] at hdirection

/-- 44_search.md R130 (b), (f): what is recorded is a zero branch. -/
theorem zeroAt_iff_zeroBranch {j : Nat} (hj : j < 64) (hR : R ∈ roms) (h : Answers roms R (j + 1) (ans (j + 1))) :
    zeroAt ans R j = true ↔ ZeroBranch roms R (j + 1) := by
  rw [zeroAt, decide_eq_true_eq]
  constructor
  · rintro ⟨hzero, hbit⟩
    exact ⟨by omega, by omega, hbit, h.exists_one (by rw [hzero])⟩
  · rintro ⟨-, -, hbit, A, hA, hag, hA1⟩
    obtain ⟨h1, h2⟩ := h
    refine ⟨Prod.ext (Bool.eq_false_iff.mpr fun hx => ?_) (Bool.eq_false_iff.mpr fun hy => ?_), hbit⟩
    · exact absurd ((h1.mp hx R hR (agreesBelow_self _ R)).symm.trans hbit) Bool.noConfusion
    · exact absurd ((h2.mp hy A hA hag).symm.trans hA1) Bool.noConfusion

/-- LD is the last zero branch, and 0 exactly when there is none. -/
theorem lastZeroOf_zeroBranch (hR : R ∈ roms) (hans : ∀ n, 1 ≤ n → n ≤ 64 → Answers roms R n (ans n)) :
    ((lastZeroOf ans R).toNat = 0 ∧ ∀ n, ¬ ZeroBranch roms R n) ∨ LastZeroBranch roms R (lastZeroOf ans R).toNat := by
  have hiff : ∀ j < 64, (zeroAt ans R j = true ↔ ZeroBranch roms R (j + 1)) := fun j hj =>
    zeroAt_iff_zeroBranch hj hR (hans (j + 1) (by omega) (by omega))
  have hpred : ∀ n, ZeroBranch roms R n → ∃ j < 64, n = j + 1 ∧ zeroAt ans R j = true := fun n hz => by
    have ⟨hn, hn', _⟩ := hz
    obtain ⟨j, rfl⟩ := Nat.exists_eq_add_of_le' hn
    exact ⟨j, hn', rfl, (hiff j hn').mpr hz⟩
  rw [lastZeroOf_toNat]
  obtain ⟨hlast, hnone⟩ | ⟨j, hj, hlast, hzero, hmax⟩ := lastPosition_filter_range 0 64 (zeroAt ans R)
  · refine .inl ⟨hlast, fun n hz => ?_⟩
    obtain ⟨j, hj, -, hzero⟩ := hpred n hz
    exact Bool.eq_false_iff.mp (hnone j hj) hzero
  · rw [hlast]
    refine .inr ⟨(hiff j hj).mp hzero, fun n hz => ?_⟩
    obtain ⟨i, hi, rfl, hzero⟩ := hpred n hz
    exact Nat.succ_le_succ (hmax i hi hzero)

end Sys2Proof.Machine
end

section
/-! SUPPORT. ENUMERATE on the reference bus (46_host_sequences.md R155): what is still to be found between two searches. -/

namespace Sys2Proof.Machine

variable {roms : List Address} {s : State} {A : Address}

/-- A state between two searches of an enumeration of the addresses `roms`: LD is 0, or the last zero branch of the address
found last. -/
structure State.Enumerating (roms : List Address) (s : State) : Prop where
  bus : ∃ ds, s.line.bus = .devices ds ∧ ds.map Device.rom = roms
  resume : s.ld.toNat = 0 ∨ s.romNo ∈ roms ∧ LastZeroBranch roms s.romNo s.ld.toNat

/-- The addresses the enumeration has still to find. -/
def State.Pending (roms : List Address) (s : State) (A : Address) : Prop :=
  A ∈ roms ∧ s.ldf = false ∧ (s.ld.toNat = 0 ∨ addressBefore s.romNo A)

/-- After a pass that ended at `t.romNo`, what comes after it is pending. -/
theorem State.pending_iff_after {t : State} (hldf : t.ldf = decide (t.ld = 0))
    (hlast : (t.ld.toNat = 0 ∧ ∀ n, ¬ ZeroBranch roms t.romNo n) ∨ LastZeroBranch roms t.romNo t.ld.toNat) :
    t.Pending roms A ↔ A ∈ roms ∧ addressBefore t.romNo A := by
  have hzero : t.ldf = false ↔ t.ld.toNat ≠ 0 := by rw [hldf, decide_eq_false_iff_not, BitVec.toNat_eq]; rfl
  constructor
  · rintro ⟨hA, hf, hafter⟩
    exact ⟨hA, hafter.resolve_left (hzero.mp hf)⟩
  · rintro ⟨hA, hafter⟩
    obtain ⟨n, hn, -⟩ := hafter.zeroBranch hA
    obtain ⟨⟨hpos, -⟩, -⟩ := hlast.resolve_left fun hnone => hnone.2 n hn
    exact ⟨hA, hzero.mpr (Nat.ne_of_gt hpos), .inr hafter⟩

/-- The pass takes one address off those pending, the first of them. -/
theorem State.pending_iff_next {R : Address} (hldf : s.ldf = false) (h : s.Enumerating roms) (hR : R ∈ roms)
    (hchooses : Chooses roms s.ld.toNat s.romNo R) : s.Pending roms A ↔ A = R ∨ A ∈ roms ∧ addressBefore R A := by
  have hnext : s.ld.toNat = 0 ∨ addressBefore s.romNo R :=
    h.resume.imp_right fun ⟨hold, hbranch⟩ => hchooses.after hold hbranch
  constructor
  · rintro ⟨hA, -, hafter⟩
    exact or_iff_not_imp_left.mpr fun hne => ⟨hA, hchooses.least h.resume hA hafter hne⟩
  · rintro (rfl | ⟨hA, hafter⟩)
    · exact ⟨hR, hldf, hnext⟩
    · exact ⟨hA, hldf, hnext.imp_right fun hbefore => hbefore.trans hafter⟩

/-- 44_search.md R132, R133: with nothing pending a search is not found. -/
theorem exec_searchRom_nothing (h : s.Enumerating roms) (hnone : s.ldf = true ∨ roms = []) :
    ∃ t, exec .searchRom s = .next t ∧ t.flags.ok = false := by
  cases hldf : s.ldf with
  | true => exact ⟨_, exec_search_exhausted (.head _) hldf, rfl⟩
  | false =>
    obtain ⟨ds, hbus, rfl⟩ := h.bus
    obtain rfl := List.map_eq_nil_iff.mp (hnone.resolve_left (by simp [hldf]))
    exact ⟨_, exec_search_noPresence (.head _) hldf (by rw [hbus]; rfl), rfl⟩

/-- 44_search.md R135: otherwise it finds the first pending address, and leaves the others pending. -/
theorem exec_searchRom_next (h : s.Enumerating roms) (hldf : s.ldf = false) (hne : roms ≠ []) :
    ∃ t, exec .searchRom s = .next t ∧ t.flags.ok = true ∧ t.Enumerating roms ∧
      (∀ A, t.Pending roms A ↔ A ∈ roms ∧ addressBefore t.romNo A) ∧
      ∀ A, s.Pending roms A ↔ A = t.romNo ∨ t.Pending roms A := by
  obtain ⟨ds, hbus, rfl⟩ := h.bus
  have hds : ds ≠ [] := mt List.map_eq_nil_iff.mpr hne
  obtain ⟨ans, m, v, R, l, hpass⟩ := s.exists_searchPass s.params.cmdSearchRom
  obtain ⟨rfl, hl, hR, hans⟩ := hpass.onDevices hbus hds (searching_searchRom _ _)
  have hlast := lastZeroOf_zeroBranch hR hans
  have hend := exec_search_found (.head _) hldf (by rw [hbus, Bus.reset_presence hds]) hpass
  refine ⟨_, hend, rfl, ⟨⟨_, hl, ?_⟩, hlast.imp And.left fun hbranch => ⟨hR, hbranch⟩⟩,
    fun A => State.pending_iff_after rfl hlast, fun A => ?_⟩
  · simp [List.map_map, Function.comp_def]
  · have hnext := State.pending_iff_next (A := A) hldf h hR (hpass.chooses hR hans)
    exact hnext.trans (or_congr_right (Iff.symm (State.pending_iff_after rfl hlast)))

/-! ## The loop -/

/-- Eight host reads give ROM_NO. -/
theorem hostReadRomNo_eq (s : State) : hostReadRomNo s = s.romNo := by
  refine ext_getD fun k hk => ?_
  have hread : hostRead (.romNo k) s = s.romNo.getD k 0 := s.readReg_address (r := .romNo k) (decide_eq_true hk)
  interval_cases k <;> exact hread

theorem enumerateLoop_found {cmd : Instr} (room : Nat) (h : (issue cmd s).flags.ok = true) :
    (enumerateLoop cmd (room + 1) s).1 = (issue cmd s).romNo :: (enumerateLoop cmd room (issue cmd s)).1 := by
  rw [enumerateLoop, hostRead_status_ok, if_pos h, hostReadRomNo_eq]

theorem enumerateLoop_end {cmd : Instr} (room : Nat) (h : (issue cmd s).flags.ok = false) :
    (enumerateLoop cmd room s).1 = [] := by
  cases room with
  | zero => rfl
  | succ room => rw [enumerateLoop, hostRead_status_ok, if_neg (Bool.eq_false_iff.mp h)]

/-- The loop lists pending addresses in order, and all of them unless it runs out of room. -/
theorem enumerateLoop_pending (room : Nat) (h : s.Enumerating roms) :
    (enumerateLoop .searchRom room s).1.Pairwise addressBefore ∧
      (∀ A ∈ (enumerateLoop .searchRom room s).1, s.Pending roms A) ∧
      ((enumerateLoop .searchRom room s).1.length < room →
        ∀ A, s.Pending roms A → A ∈ (enumerateLoop .searchRom room s).1) := by
  induction room generalizing s with
  | zero => exact ⟨.nil, fun A hA => absurd hA List.not_mem_nil, fun hlt => absurd hlt (Nat.not_lt_zero _)⟩
  | succ room ih =>
    have hissued : State.Enumerating roms { s with cmd := Instr.searchRom.opcode } := ⟨h.bus, h.resume⟩
    by_cases hnone : s.ldf = true ∨ roms = []
    · obtain ⟨t, hend, hok⟩ := exec_searchRom_nothing hissued hnone
      rw [enumerateLoop_end _ (by rw [issue_of_exec hend, hok])]
      refine ⟨.nil, fun A hA => absurd hA List.not_mem_nil, fun _ A ⟨hA, hldf, _⟩ => ?_⟩
      obtain hdone | rfl := hnone
      · exact absurd (hdone.symm.trans hldf) Bool.noConfusion
      · exact hA
    · obtain ⟨hldf, hne⟩ := not_or.mp hnone
      obtain ⟨t, hend, hok, ht, hafter, hpending⟩ := exec_searchRom_next hissued (Bool.eq_false_iff.mpr hldf) hne
      obtain ⟨hsorted, hsound, hcomplete⟩ := ih ht
      rw [enumerateLoop_found _ (by rw [issue_of_exec hend, hok]), issue_of_exec hend]
      refine ⟨.cons (fun A hA => ((hafter A).mp (hsound A hA)).2) hsorted, fun A hA => ?_, fun hlt A hA => ?_⟩
      · exact (hpending A).mpr ((List.mem_cons.mp hA).imp_right (hsound A))
      · exact List.mem_cons.mpr (((hpending A).mp hA).imp_right (hcomplete (Nat.lt_of_succ_lt_succ hlt) A))

end Sys2Proof.Machine
end

section
/-! PROOFS. The statement about an enumeration (44_search.md R135, 46_host_sequences.md R155). -/

namespace Sys2Proof.Machine

/-- Settles O54: after SEARCH_RESET every address is pending; the loop lists them in order, and a list without repetition that
fills the room for every device holds them all. -/
theorem enumerationFindsEveryDevice : Obligations.EnumerationFindsEveryDevice := by
  intro s ds max hbus hmax
  have hreset := issue_of_exec (exec_searchReset { s with cmd := Instr.searchReset.opcode })
  have hstart : (issue .searchReset s).Enumerating (ds.map Device.rom) := by
    rw [hreset]
    exact ⟨⟨ds, hbus, rfl⟩, .inl rfl⟩
  have hpending : ∀ A ∈ ds.map Device.rom, (issue .searchReset s).Pending (ds.map Device.rom) A := by
    rw [hreset]
    exact fun A hA => ⟨hA, rfl, .inl rfl⟩
  obtain ⟨hsorted, hsound, hcomplete⟩ := enumerateLoop_pending max hstart
  rw [enumerate]
  refine ⟨hsorted, fun A => ?_⟩
  rw [← List.mem_map]
  refine ⟨fun hA => (hsound A hA).1, fun hA => ?_⟩
  by_cases hroom : (enumerateLoop .searchRom max (issue .searchReset s)).1.length < max
  · exact hcomplete hroom A (hpending A hA)
  · have hsub := List.subperm_of_subset (hsorted.imp addressBefore.ne) fun A hA => (hsound A hA).1
    have hperm := hsub.perm_of_length_le (by rw [List.length_map]; omega)
    exact hperm.mem_iff.mpr hA

end Sys2Proof.Machine
end

section
/-! SUPPORT. The scratchpad commands once their first reset has found presence, each as one update of the state it starts
from (45_scratchpad.md R143 to R147), and how many exchanges their frames are. -/

namespace Sys2Proof.Machine

variable {s : State}

/-! ## READ_SCRATCHPAD and WRITE_SCRATCHPAD -/

/-- 45_scratchpad.md R143: what the read frame found is what the command stores. -/
theorem exec_readScratchpad_presence (h : s.line.bus.reset.1 = true) :
    exec .readScratchpad s = .next { s with
      flags := s.flags.result true true false false
      err := .none
      seq := .idle
      sp := s.opened.readFrame.sp
      line := s.opened.readFrame.line } := by
  obtain ⟨P, l, q, hframe, -⟩ := s.opened.readFrame_spec
  rw [exec_readScratchpad, if_pos h, hframe, State.opened_of_presence s h]
  rfl

/-- 45_scratchpad.md R144. -/
theorem exec_writeScratchpad_presence (h : s.line.bus.reset.1 = true) :
    exec .writeScratchpad s = .next { s with
      flags := s.flags.result true true false false
      err := .none
      seq := .idle
      line := s.opened.writeFrame.line } := by
  obtain ⟨l, q, hframe, -⟩ := s.opened.writeFrame_spec
  rw [exec_writeScratchpad, if_pos h, hframe, State.opened_of_presence s h]
  rfl

/-- 45_scratchpad.md R141 on the line: the nine bytes in SP at the end are the ones the trace shows. -/
theorem State.opened_readFrame_line (h : s.line.bus.reset.1 = true) :
    s.opened.readFrame.line.owOe = false ∧ ∃ q : Bool,
      s.opened.readFrame.line.trace =
        s.line.trace ++ [.reset true] ++ readFrameTrace s.params s.addr s.opened.readFrame.sp q := by
  obtain ⟨P, l, q, hframe, hreleased, htrace⟩ := s.opened.readFrame_spec
  rw [State.opened_trace, h] at htrace
  rw [hframe]
  exact ⟨hreleased, q, htrace⟩

/-- 45_scratchpad.md R142 on the line. -/
theorem State.opened_writeFrame_line (h : s.line.bus.reset.1 = true) :
    s.opened.writeFrame.line.owOe = false ∧ ∃ q : Bool,
      s.opened.writeFrame.line.trace =
        s.line.trace ++ [.reset true] ++ writeFrameTrace s.params s.addr s.wth s.wtl s.wcfg q := by
  obtain ⟨l, q, hframe, hreleased, htrace⟩ := s.opened.writeFrame_spec
  rw [State.opened_trace, h] at htrace
  rw [hframe]
  exact ⟨hreleased, q, htrace⟩

/-! ## The length of a frame -/

@[simp] theorem txBytes_length (vs : List Byte) : (txBytes vs).length = 8 * vs.length := by
  simp [txBytes, txByte, byteBits, Nat.mul_comm]

@[simp] theorem rxBytes_length (vs : List Byte) : (rxBytes vs).length = 8 * vs.length := by
  simp [rxBytes, rxByte, byteBits, Nat.mul_comm]

@[simp] theorem readFrameTrace_length (p : Params) (A : Address) (P : Pad) (q : Bool) :
    (readFrameTrace p A P q).length = 153 := by
  simp [readFrameTrace, txByte, byteBits]

@[simp] theorem writeFrameTrace_length (p : Params) (A : Address) (th tl cfg : Byte) (q : Bool) :
    (writeFrameTrace p A th tl cfg q).length = 105 := by
  simp [writeFrameTrace]

/-! ## IS_CONNECTED and SET_RESOLUTION -/

/-- 43_crc8.md R122, 45_scratchpad.md R148: what both tests of a scratchpad mean. -/
def ValidPad (P : Pad) : Prop := padCrc P = P[8] ∧ ∃ k : Fin 9, P[k] ≠ 0x00

theorem validPad_iff (P : Pad) : (decide (padCrc P = P[8]) && padNonzero P) = true ↔ ValidPad P := by
  rw [Bool.and_eq_true, decide_eq_true_eq, padNonzero_iff, ValidPad]

/-- 45_scratchpad.md R147: a failed check ends both commands. -/
theorem exec_connected_failed {i : Instr} (hi : i ∈ [Instr.isConnected, .setResolution])
    (h : s.line.bus.reset.1 = true) (htests : s.opened.readFrame.checkPad.padPassed = false) :
    exec i s = .next (s.opened.readFrame.checkPad.fail .integrityFailure) := by
  have hfailed := Bool.eq_false_iff.mp htests
  simp only [List.mem_cons, List.not_mem_nil, or_false] at hi
  obtain rfl | rfl := hi
  · rw [exec_isConnected, if_pos h, if_neg hfailed]
  · rw [exec_setResolution, if_pos h, if_neg hfailed]

theorem exec_isConnected_passed (h : s.line.bus.reset.1 = true) (htests : s.opened.readFrame.checkPad.padPassed = true) :
    exec .isConnected s = .next (s.opened.readFrame.checkPad.done true) := by
  rw [exec_isConnected, if_pos h, if_pos htests]

/-- 45_scratchpad.md R146: a passed check leads to the write-back. -/
theorem exec_setResolution_passed (h : s.line.bus.reset.1 = true) (htests : s.opened.readFrame.checkPad.padPassed = true) :
    exec .setResolution s = .next (s.opened.readFrame.checkPad.writeBack s.requestedPattern) := by
  rw [exec_setResolution, if_pos h, if_pos htests]

/-- 45_scratchpad.md R146: the write-back leaves the snapshot and its CRC. -/
theorem State.writeBack_sp_crc (t : State) (pat : Byte) : (t.writeBack pat).sp = t.sp ∧ (t.writeBack pat).crc = t.crc := by
  by_cases hsame : t.sp[4] = pat
  · rw [State.writeBack_same t hsame]
    exact ⟨rfl, rfl⟩
  · obtain ⟨l, again, last, hback, -⟩ := State.writeBack_changed t hsame
    rw [hback]
    exact ⟨rfl, rfl⟩

/-- 45_scratchpad.md R148: IS_CONNECTED and SET_RESOLUTION end with OK only after both tests have passed, and neither touches
SP or CRC after them. -/
theorem exec_connected_ok {i : Instr} {t : State} (hi : i ∈ [Instr.isConnected, .setResolution])
    (hend : exec i s = .next t) (hok : t.flags.ok = true) :
    s.line.bus.reset.1 = true ∧ s.opened.readFrame.checkPad.padPassed = true ∧
      t.sp = s.opened.readFrame.checkPad.sp ∧ t.crc = s.opened.readFrame.checkPad.crc := by
  cases h : s.line.bus.reset.1 with
  | false =>
    cases hend.symm.trans (exec_scratchpad_noPresence (List.mem_append_right [Instr.readScratchpad, .writeScratchpad] hi) h)
    exact absurd hok Bool.false_ne_true
  | true =>
    have hfailed := exec_connected_failed hi h
    have hconnected := exec_isConnected_passed h
    have hset := exec_setResolution_passed h
    generalize s.opened.readFrame.checkPad = c at *
    cases htests : c.padPassed with
    | false =>
      cases hend.symm.trans (hfailed htests)
      exact absurd hok Bool.false_ne_true
    | true =>
      simp only [List.mem_cons, List.not_mem_nil, or_false] at hi
      obtain rfl | rfl := hi
      · cases hend.symm.trans (hconnected htests)
        exact ⟨rfl, rfl, rfl, rfl⟩
      · cases hend.symm.trans (hset htests)
        exact ⟨rfl, rfl, State.writeBack_sp_crc c _⟩

end Sys2Proof.Machine
end

section
/-! PROOFS. The statements about the scratchpad commands on any bus (45_scratchpad.md R143 to R146). -/

namespace Sys2Proof.Machine

/-- Settles O44, by the read frame after a reset that found presence. -/
theorem readScratchpadStoresWhatWasRead : Obligations.ReadScratchpadStoresWhatWasRead := by
  intro s h
  obtain ⟨hreleased, q, htrace⟩ := State.opened_readFrame_line h
  exact ⟨_, _, q, exec_readScratchpad_presence h, hreleased, htrace⟩

/-- Settles O45, by the write frame after a reset that found presence. -/
theorem writeScratchpadSendsThreeBytes : Obligations.WriteScratchpadSendsThreeBytes := by
  intro s h
  obtain ⟨hreleased, q, htrace⟩ := State.opened_writeFrame_line h
  exact ⟨_, q, exec_writeScratchpad_presence h, hreleased, htrace⟩

/-- Settles O46: the nine bytes of the read frame, then what the two tests leave (`State.checkPad_end`). -/
theorem isConnectedChecksWhatWasRead : Obligations.IsConnectedChecksWhatWasRead := by
  intro s h
  obtain ⟨P, l, q, hframe, hreleased, htrace⟩ := s.opened.readFrame_spec
  rw [State.opened_trace, h] at htrace
  simp only [← padCrc_eq, ← padNonzero_eq]
  refine ⟨P, l, q, _, _, ?_, rfl, rfl, hreleased, htrace⟩
  rw [exec_isConnected, if_pos h, State.checkPad_end, hframe, State.opened_of_presence s h]
  rfl

/-- Settles O47: the tests fail, or the pattern is already there, or the write-back of `State.writeBack_changed` is made. -/
theorem setResolutionWritesBackOnChange : Obligations.SetResolutionWritesBackOnChange := by
  intro s h
  obtain ⟨P, l, q, hchecked, hreleased, htrace⟩ := s.checked_spec h
  simp only [← padCrc_eq, ← padNonzero_eq, ← State.requestedPattern_eq]
  cases htests : decide (padCrc P = P[8]) && padNonzero P with
  | false =>
    have hfailed := Bool.eq_false_iff.mp htests
    refine ⟨P, l, q, _, _, _, rfl, rfl, rfl, hreleased, fun _ => ⟨?_, htrace⟩,
      fun hpassed => absurd hpassed hfailed, fun hpassed => absurd hpassed hfailed⟩
    rw [exec_connected_failed (.tail _ (.head _)) h (by rw [hchecked]; exact htests), hchecked]
    rfl
  | true =>
    have hpassed := (Bool.not_eq_false _).mpr htests
    have hend := exec_setResolution_passed h (by rw [hchecked]; exact htests)
    have hback := State.writeBack_changed s.opened.readFrame.checkPad (pat := s.requestedPattern)
    obtain ⟨hcrc, hnonzero⟩ : padCrc P = P[8] ∧ padNonzero P = true := by simpa using htests
    rw [hchecked, hnonzero, hcrc, decide_eq_true (rfl : P[8] = P[8])] at hend hback
    by_cases hsame : P[4] = s.requestedPattern
    · refine ⟨P, l, q, _, _, _, rfl, rfl, rfl, hreleased, fun hfailed => absurd hfailed hpassed,
        fun _ _ => ⟨?_, htrace⟩, fun _ hchange => absurd hsame hchange⟩
      rw [hend, State.writeBack_same _ hsame]
      rfl
    · obtain ⟨m, again, last, hwritten, hmreleased, hmtrace⟩ := hback hsame
      refine ⟨P, m, q, _, _, _, rfl, rfl, rfl, hmreleased, fun hfailed => absurd hfailed hpassed,
        fun _ heq => absurd heq hsame, fun _ _ => ⟨again, last, ?_, ?_⟩⟩
      · rw [hend, hwritten]
        rfl
      · rw [hmtrace, htrace]

end Sys2Proof.Machine
end

section
/-! SUPPORT. The scratchpad frames on the reference bus (20_memory.md R47): a device selected by its address, its scratchpad
read out and written. -/

namespace Sys2Proof.Machine

variable {p : Params} {d : Device} {n : Nat}

/-! ## Written bytes on a device -/

/-- Bytes on one device, in order. -/
def Device.onBytes (p : Params) (vs : List Byte) (d : Device) : Device := vs.foldl (fun d v => d.onByte p v) d

theorem Device.onBytes_cons (v : Byte) (vs : List Byte) : d.onBytes p (v :: vs) = (d.onByte p v).onBytes p vs := rfl

theorem Device.onBytes_append (vs ws : List Byte) : d.onBytes p (vs ++ ws) = (d.onBytes p vs).onBytes p ws :=
  List.foldl_append

theorem Line.writeBytes_devices (p : Params) (vs : List Byte) (l : Line) (ds : List Device) (h : l.bus = .devices ds) :
    (l.writeBytes p vs).bus = .devices (ds.map (Device.onBytes p vs)) := by
  induction vs generalizing l ds with
  | nil => rwa [show Device.onBytes p [] = id from rfl, List.map_id]
  | cons v vs ih =>
    have hrest := ih (l.writeByte p v) _ (Line.writeByte_devices p l ds v h)
    rw [List.map_map] at hrest
    exact hrest

/-- The bits of a byte bring a family of devices eight places on when each bit brings it one place on. -/
theorem Device.onByte_of_onWrite (f : Nat → Device) (v : Byte) (n : Nat)
    (hbit : ∀ i < 8, (f (n + i)).onWrite p (v.getLsbD i) = f (n + i + 1)) : (f n).onByte p v = f (n + 8) := by
  simp only [Device.onByte, byteBits, List.foldl_cons, List.foldl_nil]
  rw [show f n = f (n + 0) from rfl, hbit 0 (by decide), hbit 1 (by decide), hbit 2 (by decide), hbit 3 (by decide),
    hbit 4 (by decide), hbit 5 (by decide), hbit 6 (by decide), hbit 7 (by decide)]

/-! ## Selection by address -/

/-- A device whose address has agreed with the bits after the match command so far: position `n` comes next, and after
position 64 it is selected. -/
def Device.matched (d : Device) (n : Nat) : Device := { d with mode := if n = 65 then .func [] else .matching n }

theorem Device.matched_end : d.matched 65 = { d with mode := .func [] } := by
  rw [Device.matched, if_pos rfl]

theorem Device.matched_onWrite (hn : n ≤ 64) : (d.matched n).onWrite p (abit d.rom n) = d.matched (n + 1) := by
  have hne : n ≠ 65 := by omega
  simp [Device.matched, Device.onWrite, hne]

/-- 10_state.md R16: byte `k` of an address holds positions `8k + 1` to `8k + 8`. -/
theorem abit_of_byte (A : Address) (k : Nat) {i : Nat} (hi : i < 8) : abit A (8 * k + 1 + i) = (A.getD k 0).getLsbD i := by
  have hbyte : (8 * k + 1 + i - 1) / 8 = k := by omega
  have hbit : (8 * k + 1 + i - 1) % 8 = i := by omega
  rw [abit, hbyte, hbit]

theorem Device.matched_onByte {k : Nat} (hk : k < 8) :
    (d.matched (8 * k + 1)).onByte p (d.rom.getD k 0) = d.matched (8 * (k + 1) + 1) := by
  refine Device.onByte_of_onWrite d.matched _ _ fun i hi => ?_
  rw [← abit_of_byte d.rom k hi]
  exact Device.matched_onWrite (by omega)

theorem Device.matched_onBytes {k : Nat} (hk : k ≤ 8) :
    (d.matched 1).onBytes p (d.rom.toList.take k) = d.matched (8 * k + 1) := by
  induction k with
  | zero => rfl
  | succ k ih =>
    have hlt : k < d.rom.toList.length := by rw [Vector.length_toList]; omega
    have hbyte : d.rom.toList[k] = d.rom.getD k 0 := by rw [getD_of_lt d.rom (by omega), Vector.getElem_toList]
    rw [List.take_succ_eq_append_getElem hlt, Device.onBytes_append, ih (by omega), hbyte, Device.onBytes_cons,
      Device.matched_onByte (by omega)]
    rfl

/-- 20_memory.md R47: the match command, when it is no search command, starts a comparison. -/
theorem Device.romCommand_match (hrom : p.cmdMatchRom ≠ p.cmdSearchRom) (halarm : p.cmdMatchRom ≠ p.cmdSearchAlarm) :
    d.romCommand p p.cmdMatchRom = .matching 1 := by
  rw [Device.romCommand, if_neg hrom, if_neg fun h => halarm h.1, if_pos rfl]

/-- 45_scratchpad.md R140 on a device: its own address after the match command selects it. -/
theorem Device.onReset_onBytes_select (hrom : p.cmdMatchRom ≠ p.cmdSearchRom) (halarm : p.cmdMatchRom ≠ p.cmdSearchAlarm) :
    d.onReset.onBytes p (p.cmdMatchRom :: d.rom.toList) = { d with mode := .func [] } := by
  have hmatched : (d.matched 1).onBytes p d.rom.toList = d.matched 65 := by
    have h := d.matched_onBytes (p := p) (Nat.le_refl 8)
    rwa [List.take_of_length_le (by rw [Vector.length_toList])] at h
  have hstart : d.onReset.onByte p p.cmdMatchRom = d.matched 1 := by
    rw [Device.onReset_onByte, Device.romCommand_match hrom halarm]
    rfl
  rw [Device.onBytes_cons, hstart, hmatched, Device.matched_end]

/-! ## A scratchpad read out -/

/-- A bus that gives the bits of a list one by one gives all of them to as many read slots. -/
theorem Line.readBits_of_reads (f : Nat → Bus) (bit : Nat → Bool) (k n : Nat) (l : Line) (h : l.bus = f n)
    (hread : ∀ i < k, (f (n + i)).read = (bit i, f (n + i + 1))) :
    (l.readBits p k).1 = (List.range k).map bit ∧ (l.readBits p k).2.bus = f (n + k) := by
  induction k generalizing n l bit with
  | zero => exact ⟨rfl, h⟩
  | succ k ih =>
    have hfirst : l.bus.read = (bit 0, f (n + 1)) := by rw [h]; exact hread 0 (Nat.succ_pos k)
    obtain ⟨m, hm, hbits⟩ := l.readBits_succ_of_read p hfirst k
    obtain ⟨hanswers, hbus⟩ := ih (fun i => bit (i + 1)) (n + 1) m hm fun i hi => by
      rw [Nat.add_assoc n 1 i, Nat.add_comm 1 i]
      exact hread (i + 1) (Nat.succ_lt_succ hi)
    rw [hbits, List.range_succ_eq_map, List.map_cons, List.map_map]
    refine ⟨congrArg (bit 0 :: ·) hanswers, ?_⟩
    rw [hbus, Nat.add_assoc, Nat.add_comm 1 k]

/-- 41_transport.md R103: eight such bits are a byte. -/
theorem Line.readByte_of_reads (f : Nat → Bus) (v : Byte) (n : Nat) (l : Line) (h : l.bus = f n)
    (hread : ∀ i < 8, (f (n + i)).read = (v.getLsbD i, f (n + i + 1))) :
    (l.readByte p).1 = v ∧ (l.readByte p).2.bus = f (n + 8) := by
  obtain ⟨hanswers, hbus⟩ := l.readBits_of_reads (p := p) f v.getLsbD 8 n h hread
  exact ⟨(congrArg bitsByte hanswers).trans (bitsByte_byteBits v), hbus⟩

/-- A bus with only this device, which has sent `n` bits of its scratchpad. -/
def Device.readingBus (d : Device) (n : Nat) : Bus := .devices [{ d with mode := .readSp n }]

theorem Device.readingBus_read (k : Nat) (hk : k < 9) {i : Nat} (hi : i < 8) :
    (d.readingBus (8 * k + i)).read = ((d.sp.getD k 0).getLsbD i, d.readingBus (8 * k + i + 1)) := by
  have hbyte : (8 * k + i) / 8 = k := by omega
  have hbit : (8 * k + i) % 8 = i := by omega
  have hlt : 8 * k + i < 72 := by omega
  simp [Device.readingBus, Bus.read_devices, Device.offer, Device.onRead, hbyte, hbit, hlt]

/-- 45_scratchpad.md R141 on the only device: what is stored is its scratchpad. -/
theorem Line.readPad_device (k : Nat) (hk : k ≤ 9) (P : Pad) (l : Line) (hbus : l.bus = d.readingBus (8 * (9 - k)))
    (hbelow : ∀ j < 9 - k, P.getD j 0 = d.sp.getD j 0) :
    (l.readPad p k P).1 = d.sp ∧ (l.readPad p k P).2.bus = d.readingBus 72 := by
  induction k generalizing P l with
  | zero => exact ⟨ext_getD hbelow, hbus⟩
  | succ k ih =>
    have hk' : 9 - (k + 1) = 8 - k := by omega
    rw [hk'] at hbus hbelow
    obtain ⟨hbyte, hnext⟩ := l.readByte_of_reads (p := p) d.readingBus (d.sp.getD (8 - k) 0) (8 * (8 - k)) hbus
      fun i hi => d.readingBus_read (8 - k) (by omega) hi
    rw [Line.readPad, hbyte]
    refine ih (by omega) _ _ (by rw [hnext]; congr 1; omega) fun j hj => ?_
    rw [getD_setIfInBounds]
    split
    next heq => rw [heq.1]
    next hne => exact hbelow j (by omega)

/-! ## A scratchpad written -/

theorem setIfInBounds_getD_self (A : Vector Byte n) (k : Nat) : A.setIfInBounds k (A.getD k 0) = A := by
  refine ext_getD fun j _ => ?_
  rw [getD_setIfInBounds]
  split
  next heq => rw [heq.1]
  next => rfl

/-- A byte whose first `i` bits have been overwritten with those of `v`. -/
def overwrite (old v : Byte) : Nat → Byte
  | 0 => old
  | i + 1 => setBit (overwrite old v i) i (v.getLsbD i)

theorem overwrite_getLsbD (old v : Byte) {i j : Nat} (hi : i ≤ 8) (hj : j < 8) :
    (overwrite old v i).getLsbD j = if j < i then v.getLsbD j else old.getLsbD j := by
  induction i with
  | zero => rfl
  | succ i ih =>
    rw [overwrite, setBit_getLsbD _ _ (by omega) hj, ih (by omega)]
    by_cases heq : i = j
    · simp [heq]
    · have hiff : j < i + 1 ↔ j < i := by omega
      simp only [heq, if_false, hiff]

theorem overwrite_eight (old v : Byte) : overwrite old v 8 = v := by
  refine BitVec.eq_of_getLsbD_eq fun j hj => ?_
  rw [overwrite_getLsbD old v (Nat.le_refl 8) hj, if_pos hj]

/-- A device that has taken `n` of 24 bits and holds `P`; after the last one it has recomputed byte 8. -/
def Device.writing (d : Device) (P : Pad) (n : Nat) : Device :=
  if n = 24 then { d with sp := P.setIfInBounds 8 (padCrc P), mode := .idle } else { d with sp := P, mode := .writeSp n }

theorem Device.writing_onWrite (P : Pad) {k i : Nat} (hk : k < 3) (hi : i < 8) (b : Bool) :
    (d.writing P (8 * k + i)).onWrite p b =
      d.writing (P.setIfInBounds (2 + k) (setBit (P.getD (2 + k) 0) i b)) (8 * k + i + 1) := by
  have hbyte : (8 * k + i) / 8 = k := by omega
  have hbit : (8 * k + i) % 8 = i := by omega
  have hne : 8 * k + i ≠ 24 := by omega
  have hlast : 8 * k + i = 23 ↔ 8 * k + i + 1 = 24 := by omega
  simp only [Device.writing, if_neg hne, Device.onWrite, Device.written, hbyte, hbit, hlast]

/-- The same in the middle of payload byte `k`, whose bits before the `n`th of the 24 are those of `v`. -/
def Device.writingByte (d : Device) (P : Pad) (k : Nat) (v : Byte) (n : Nat) : Device :=
  d.writing (P.setIfInBounds (2 + k) (overwrite (P.getD (2 + k) 0) v (n - 8 * k))) n

theorem Device.writingByte_onWrite (P : Pad) {k i : Nat} (hk : k < 3) (hi : i < 8) (v : Byte) :
    (d.writingByte P k v (8 * k + i)).onWrite p (v.getLsbD i) = d.writingByte P k v (8 * k + i + 1) := by
  have hnext : 8 * k + i + 1 - 8 * k = i + 1 := by omega
  rw [Device.writingByte, Device.writing_onWrite _ hk hi, getD_setIfInBounds, if_pos ⟨rfl, by omega⟩,
    Vector.setIfInBounds_setIfInBounds, Device.writingByte, hnext, overwrite, Nat.add_sub_cancel_left]

theorem Device.writingByte_start (P : Pad) (k : Nat) (v : Byte) : d.writingByte P k v (8 * k) = d.writing P (8 * k) := by
  rw [Device.writingByte, Nat.sub_self, overwrite, setIfInBounds_getD_self]

theorem Device.writingByte_end (P : Pad) (k : Nat) (v : Byte) :
    d.writingByte P k v (8 * k + 8) = d.writing (P.setIfInBounds (2 + k) v) (8 * (k + 1)) := by
  rw [Device.writingByte, Nat.add_sub_cancel_left, overwrite_eight, Nat.mul_succ]

theorem Device.writing_onByte (P : Pad) {k : Nat} (hk : k < 3) (v : Byte) :
    (d.writing P (8 * k)).onByte p v = d.writing (P.setIfInBounds (2 + k) v) (8 * (k + 1)) := by
  rw [← Device.writingByte_start P k v, ← Device.writingByte_end]
  exact Device.onByte_of_onWrite (d.writingByte P k v) v (8 * k) fun i hi => Device.writingByte_onWrite P hk hi v

/-- 20_memory.md R47: the three payload bytes land in elements 2 to 4, and byte 8 becomes the CRC. -/
theorem Device.writing_onBytes (th tl cfg : Byte) :
    (d.writing d.sp 0).onBytes p [th, tl, cfg] = { d with
      sp := #v[d.sp[0], d.sp[1], th, tl, cfg, d.sp[5], d.sp[6], d.sp[7],
        crc8 [d.sp[0], d.sp[1], th, tl, cfg, d.sp[5], d.sp[6], d.sp[7]]]
      mode := .idle } := by
  simp only [Device.onBytes, List.foldl_cons, List.foldl_nil]
  rw [Device.writing_onByte (k := 0) _ (by decide), Device.writing_onByte (k := 1) _ (by decide),
    Device.writing_onByte (k := 2) _ (by decide), Device.writing, if_pos rfl]
  congr 1
  obtain ⟨⟨bytes⟩, hlen⟩ := d.sp
  match bytes, hlen with
  | [_, _, _, _, _, _, _, _, _], _ => rfl

/-! ## The two frames on a bus with one device -/

variable {s : State}

theorem Line.busReset_bus (l : Line) : (l.busReset p).2.bus = l.bus.reset.2 := by rw [Line.busReset_eq]

@[simp] theorem State.opened_wth : s.opened.wth = s.wth := rfl
@[simp] theorem State.opened_wtl : s.opened.wtl = s.wtl := rfl
@[simp] theorem State.opened_wcfg : s.opened.wcfg = s.wcfg := rfl

theorem Device.selected_onByte (c : Byte) :
    ({ d with mode := .func [] } : Device).onByte p c = { d with mode := funcCommand p c } :=
  Device.onByte_func p c _ rfl

section

variable (hbus : s.line.bus = .devices [d]) (haddr : s.addr = d.rom)
  (hrom : s.params.cmdMatchRom ≠ s.params.cmdSearchRom) (halarm : s.params.cmdMatchRom ≠ s.params.cmdSearchAlarm)

include hbus haddr hrom halarm

/-- 45_scratchpad.md R140: after the opening reset and the select procedure the addressed device waits for a command. -/
theorem State.opened_select_bus :
    (s.opened.line.select s.params s.addr).bus = .devices [{ d with mode := .func [] }] := by
  have hopened : s.opened.line.bus = .devices [d.onReset] := by
    rw [State.opened, Line.busReset_bus, hbus]
    rfl
  rw [Line.select, Line.writeBytes_devices _ _ _ _ hopened, haddr, List.map_singleton,
    Device.onReset_onBytes_select hrom halarm]

/-- 45_scratchpad.md R141: the read frame stores its scratchpad, and the closing reset is the last it sees. -/
theorem State.opened_readFrame_device :
    s.opened.readFrame.sp = d.sp ∧ s.opened.readFrame.line.bus = .devices [{ d with mode := .romCmd [] }] := by
  have hcommand : ((s.opened.line.select s.params s.addr).writeByte s.params s.params.cmdReadScratchpad).bus =
      d.readingBus 0 := by
    rw [Line.writeByte_devices _ _ _ _ (State.opened_select_bus hbus haddr hrom halarm), List.map_singleton,
      Device.selected_onByte, funcCommand, if_pos rfl]
    rfl
  obtain ⟨hsp, hend⟩ := Line.readPad_device (p := s.params) 9 (Nat.le_refl 9) s.sp _ hcommand
    fun j hj => absurd hj (Nat.not_lt_zero j)
  simp only [State.readFrame, State.opened_params, State.opened_addr, State.opened_sp, Line.busReset_bus, hsp, hend, true_and]
  rfl

/-- 45_scratchpad.md R142: the write frame replaces bytes 2 to 4, and the device recomputes byte 8. -/
theorem State.opened_writeFrame_device
    (hwrite : s.params.cmdWriteScratchpad ≠ s.params.cmdReadScratchpad) :
    s.opened.writeFrame.line.bus = .devices [{ d with
      sp := #v[d.sp[0], d.sp[1], s.wth, s.wtl, s.wcfg, d.sp[5], d.sp[6], d.sp[7],
        crc8 [d.sp[0], d.sp[1], s.wth, s.wtl, s.wcfg, d.sp[5], d.sp[6], d.sp[7]]]
      mode := .romCmd [] }] := by
  have hcommand : ({ d with mode := .func [] } : Device).onByte s.params s.params.cmdWriteScratchpad = d.writing d.sp 0 := by
    rw [Device.selected_onByte, funcCommand, if_neg hwrite, if_pos rfl]
    rfl
  have hpayload := Line.writeBytes_devices s.params [s.params.cmdWriteScratchpad, s.wth, s.wtl, s.wcfg] _ _
    (State.opened_select_bus hbus haddr hrom halarm)
  rw [List.map_singleton, Device.onBytes_cons, hcommand, Device.writing_onBytes] at hpayload
  simp only [State.writeFrame, State.onLine_line, State.opened_params, State.opened_addr, State.opened_wth, State.opened_wtl,
    State.opened_wcfg, Line.busReset_bus, hpayload]
  rfl

end

end Sys2Proof.Machine
end

section
/-! PROOFS. The statements about the scratchpad commands on the reference bus (20_memory.md R47), and what OK promises
(45_scratchpad.md R148). -/

namespace Sys2Proof.Machine

/-- Settles O49, by the read frame on a bus with the addressed device alone. -/
theorem scratchpadOfTheOnlyDeviceIsRead : Obligations.ScratchpadOfTheOnlyDeviceIsRead := by
  intro s d hbus haddr hrom halarm
  have h : s.line.bus.reset.1 = true := by rw [hbus, Bus.reset_presence (List.cons_ne_nil d [])]
  obtain ⟨hsp, hend⟩ := State.opened_readFrame_device hbus haddr hrom halarm
  obtain ⟨-, q, htrace⟩ := State.opened_readFrame_line h
  refine ⟨_, hsp ▸ exec_readScratchpad_presence h, hend, ?_⟩
  rw [htrace, List.length_append, readFrameTrace_length, List.length_append, List.length_singleton]

/-- Settles O50, by the write frame on a bus with the addressed device alone. -/
theorem scratchpadOfTheOnlyDeviceIsWritten : Obligations.ScratchpadOfTheOnlyDeviceIsWritten := by
  rintro s d P hbus haddr hrom halarm hwrite rfl
  have h : s.line.bus.reset.1 = true := by rw [hbus, Bus.reset_presence (List.cons_ne_nil d [])]
  obtain ⟨-, q, htrace⟩ := State.opened_writeFrame_line h
  refine ⟨_, exec_writeScratchpad_presence h, State.opened_writeFrame_device hbus haddr hrom halarm hwrite, ?_⟩
  rw [htrace, List.length_append, writeFrameTrace_length, List.length_append, List.length_singleton]

/-- The block out of reset on a bus whose only device answers to the reset value of ADDR and holds `P`. -/
def State.resetBeside (P : Pad) : State :=
  { State.reset with
    line := { Line.released with bus := .devices [{ rom := State.reset.addr, sp := P, alarm := false, mode := .idle }] } }

/-- READ_SCRATCHPAD ends with OK whatever the scratchpad it reads holds. -/
theorem exists_readScratchpad_ok (P : Pad) :
    ∃ s t : State, exec .readScratchpad s = .next t ∧ t.flags.ok = true ∧ t.sp = P := by
  have hrom : State.reset.params.cmdMatchRom ≠ State.reset.params.cmdSearchRom := by decide
  have halarm : State.reset.params.cmdMatchRom ≠ State.reset.params.cmdSearchAlarm := by decide
  obtain ⟨l, hend, -⟩ := scratchpadOfTheOnlyDeviceIsRead (State.resetBeside P) _ rfl rfl hrom halarm
  exact ⟨_, _, hend, rfl, rfl⟩

/-- Settles O48: OK comes only after both tests, and READ_SCRATCHPAD makes none; a device may hold nine zeros, or a last byte
that is not the CRC of the others. -/
theorem connectedMeansValidScratchpad : Obligations.ConnectedMeansValidScratchpad := by
  refine ⟨fun i s t hi hend hok => ?_, ?_, ?_⟩
  · obtain ⟨h, htests, hsp, hcrc⟩ := exec_connected_ok hi hend hok
    obtain ⟨P, l, -, hchecked, -⟩ := s.checked_spec h
    rw [hchecked] at htests hsp hcrc
    obtain ⟨hgood, hnonzero⟩ := (validPad_iff P).mp htests
    rw [hsp, hcrc]
    exact ⟨hgood, hnonzero, hgood⟩
  · obtain ⟨s, t, hend, hok, hsp⟩ := exists_readScratchpad_ok #v[0, 0, 0, 0, 0, 0, 0, 0, 1]
    refine ⟨s, t, hend, hok, ?_⟩
    rw [hsp]
    decide
  · obtain ⟨s, t, hend, hok, hsp⟩ := exists_readScratchpad_ok #v[0, 0, 0, 0, 0, 0, 0, 0, 0]
    refine ⟨s, t, hend, hok, ?_⟩
    rw [hsp]
    decide

end Sys2Proof.Machine
end

section
/-! SUPPORT. REQUEST_CONVERSION (46_host_sequences.md R156, R157): what its commands do to the line, and the three ways one
turn of the wait goes on. -/

namespace Sys2Proof.Machine

variable {s : State}

/-! ## The commands of the request -/

theorem exec_busReset_presence (h : s.line.bus.reset.1 = true) : exec .busReset s = .next (s.opened.done true) := by
  rw [exec_busReset, if_pos h]

/-- 42_reset_presence.md R111: BUS_RESET succeeds when a scripted bus answers with presence, and takes that answer off it. -/
theorem issue_busReset_free {rest : List Bool} {d : Nat} (h : s.line.bus = .free (true :: rest) d) :
    (issue .busReset s).flags.ok = true ∧ (issue .busReset s).params = s.params ∧
      (issue .busReset s).line.trace = s.line.trace ++ [.reset true] ∧ (issue .busReset s).line.bus = .free rest d := by
  have hreset : s.line.bus.reset = (true, .free rest d) := by rw [h]; rfl
  rw [issue_of_exec (exec_busReset_presence (congrArg Prod.fst hreset))]
  refine ⟨rfl, rfl, ?_⟩
  rw [State.done_line, State.opened, Line.busReset_eq, hreset]
  exact ⟨rfl, rfl⟩

/-- `WR DATA, v; WRITE_BYTE` sends `v`. -/
theorem issue_writeByte_hostWrite_data_line (s : State) (v : Byte) :
    (issue .writeByte (hostWrite .data v s)).line = s.line.writeByte s.params v := by
  rw [issue_of_exec (exec_writeByte _), hostWrite_eq_setReg s rfl]
  rfl

theorem issue_writeByte_hostWrite_data_params (s : State) (v : Byte) :
    (issue .writeByte (hostWrite .data v s)).params = s.params := by
  rw [issue_of_exec (exec_writeByte _), hostWrite_eq_setReg s rfl]
  rfl

/-- 20_memory.md R42: a written byte takes no answer off a scripted bus. -/
theorem Line.writeByte_free (p : Params) (v : Byte) {l : Line} {script : List Bool} {d : Nat} (h : l.bus = .free script d) :
    (l.writeByte p v).bus = .free script d := by
  rw [Line.writeByte_bus, h]
  rfl

theorem issue_readBit_line (s : State) : (issue .readBit s).line = (s.line.readBit s.params).2 := by
  rw [issue_of_exec (exec_readBit _)]

/-- 41_transport.md R105: after READ_BIT the host finds the answer of the bus in DATA[0]. -/
theorem hostRead_data_issue_readBit (s : State) : (hostRead .data (issue .readBit s)).getLsbD 0 = s.line.bus.read.1 := by
  have hdata : hostRead .data (issue .readBit s) = bitByte (s.line.readBit s.params).1 := by
    rw [hostRead, State.readReg_address _ rfl, issue_of_exec (exec_readBit _)]
    rfl
  rw [hdata, Line.readBit_eq]
  cases s.line.bus.read.1 with
  | false => rfl
  | true => rfl

/-- 20_memory.md R42: READ_BIT takes the next answer off a scripted bus. -/
theorem issue_readBit_free {b : Bool} {rest : List Bool} {d : Nat} (h : s.line.bus = .free (b :: rest) d) :
    (issue .readBit s).line.trace = s.line.trace ++ [.read b] ∧ (issue .readBit s).line.bus = .free rest d := by
  have hread : s.line.bus.read = (b, .free rest d) := by rw [h]; rfl
  rw [issue_readBit_line, Line.readBit_eq, hread]
  exact ⟨rfl, rfl⟩

/-! ## The wait -/

variable {res ms : Nat} {elapsed : List Nat}

theorem conversionPoll_completed (h : s.line.bus.read.1 = true) :
    conversionPoll res (ms :: elapsed) s = (.completed, issue .readBit s) := by
  rw [conversionPoll, hostRead_data_issue_readBit, if_pos h]

theorem conversionPoll_timedOut (h : s.line.bus.read.1 = false) (hms : conversionTimeout res ≤ ms) :
    conversionPoll res (ms :: elapsed) s = (.timedOut, issue .readBit s) := by
  rw [conversionPoll, hostRead_data_issue_readBit, if_neg (Bool.eq_false_iff.mp h), if_pos hms]

theorem conversionPoll_goesOn (h : s.line.bus.read.1 = false) (hms : ms < conversionTimeout res) :
    conversionPoll res (ms :: elapsed) s = conversionPoll res elapsed (issue .readBit s) := by
  rw [conversionPoll, hostRead_data_issue_readBit, if_neg (Bool.eq_false_iff.mp h), if_neg (Nat.not_le.mpr hms)]

/-- While the bus answers 0 and the clock reads less than the timeout, every turn is one read slot. -/
theorem conversionPoll_zeros {early : List Nat} {rest : List Bool} {d : Nat} (more : List Nat)
    (hbus : s.line.bus = .free (List.replicate early.length false ++ rest) d)
    (hearly : ∀ m ∈ early, m < conversionTimeout res) :
    ∃ t : State, conversionPoll res (early ++ more) s = conversionPoll res more t ∧
      t.line.trace = s.line.trace ++ List.replicate early.length (.read false) ∧ t.line.bus = .free rest d := by
  induction early generalizing s with
  | nil => exact ⟨s, rfl, (List.append_nil _).symm, hbus⟩
  | cons m early ih =>
    obtain ⟨hm, hrest⟩ := List.forall_mem_cons.mp hearly
    obtain ⟨htrace, hnext⟩ := issue_readBit_free hbus
    obtain ⟨t, hpoll, ht, hend⟩ := ih hnext hrest
    refine ⟨t, ?_, ?_, hend⟩
    · rw [List.cons_append, conversionPoll_goesOn (by rw [hbus]; rfl) hm, hpoll]
    · rw [ht, htrace, List.append_assoc]
      rfl

/-- 46_host_sequences.md R156 up to the wait: with presence, the skip and convert commands go out. -/
theorem requestConversion_of_presence {script : List Bool} {d : Nat} (res : Nat) (elapsed : List Nat)
    (h : s.line.bus = .free (true :: script) d) :
    ∃ t : State, requestConversion res elapsed s = conversionPoll res elapsed t ∧
      t.line.trace = s.line.trace ++ [.reset true] ++ txByte s.params.cmdSkipRom ++ txByte s.params.cmdConvertT ∧
      t.line.bus = .free script d := by
  obtain ⟨hok, hparams, htrace, hbus⟩ := issue_busReset_free h
  refine ⟨issue .writeByte (hostWrite .data s.params.cmdConvertT
    (issue .writeByte (hostWrite .data s.params.cmdSkipRom (issue .busReset s)))), ?_, ?_, ?_⟩
  · rw [requestConversion, hostRead_status_ok, if_pos hok, hparams]
  · simp only [issue_writeByte_hostWrite_data_line, Line.writeByte_trace, htrace]
  · simp only [issue_writeByte_hostWrite_data_line]
    exact Line.writeByte_free _ _ (Line.writeByte_free _ _ hbus)

end Sys2Proof.Machine
end

section
/-! SUPPORT. The raw temperature (46_host_sequences.md R158, R159), what READ_TEMPERATURE answers, and why no reading is a
sentinel (R160). -/

namespace Sys2Proof.Machine

/-! ## The raw value -/

variable (lsb msb : Byte)

/-- 46_host_sequences.md R158, "Written out": three zeros, then the LSB, then what is left of the MSB. -/
theorem raw16_eq_append : raw16 lsb msb = (msb.extractLsb' 0 5) ++ lsb ++ (0 : BitVec 3) := by
  refine BitVec.eq_of_getLsbD_eq fun i hi => ?_
  rw [BitVec.getLsbD_append, BitVec.getLsbD_append]
  by_cases hfill : i < 3
  · have hshift : i < 11 := by omega
    simp [raw16, hi, hfill, hshift]
  · by_cases hlow : i < 11
    · have hbyte : i - 3 < 8 := by omega
      simp [raw16, hi, hfill, hlow, hbyte]
    · have hbyte : 8 ≤ i - 3 := by omega
      have hhigh : i - 11 < 5 := by omega
      simp [raw16, hi, hfill, hlow, hhigh, Nat.not_lt.mpr hbyte, BitVec.getLsbD_of_ge lsb _ hbyte, Nat.sub_sub]

/-- 46_host_sequences.md R159: "Every `raw` is a multiple of 8". -/
theorem eight_dvd_raw16_toInt : 8 ∣ (raw16 lsb msb).toInt := by
  have hnat : (raw16 lsb msb).toNat = ((msb.extractLsb' 0 5) ++ lsb).toNat * 8 := by
    rw [raw16_eq_append, BitVec.toNat_append, Nat.shiftLeft_eq]
    exact Nat.or_zero _
  rw [BitVec.toInt_eq_toNat_cond, hnat]
  omega

theorem raw16_toInt_le_rawMax : (raw16 lsb msb).toInt ≤ Config.rawMax := by
  have hdvd := eight_dvd_raw16_toInt lsb msb
  have hlt := BitVec.toInt_lt (x := raw16 lsb msb)
  rw [Config.rawMax]
  omega

variable {lsb msb}

theorem rawTemperature_eq_none_iff : rawTemperature lsb msb = none ↔ (raw16 lsb msb).toInt ≤ Config.rawDisconnected :=
  ite_eq_left_iff.trans (by simp)

theorem rawTemperature_eq_some_iff {raw : Int} :
    rawTemperature lsb msb = some raw ↔ Config.rawDisconnected < raw ∧ raw = (raw16 lsb msb).toInt := by
  rw [rawTemperature]
  split
  next hout =>
    exact iff_of_false nofun fun ⟨hin, hraw⟩ => absurd (hraw ▸ hin) (Int.not_lt.mpr hout)
  next hin =>
    rw [Option.some_inj]
    exact ⟨fun hraw => ⟨hraw ▸ Int.not_le.mp hin, hraw.symm⟩, fun ⟨_, hraw⟩ => hraw.symm⟩

/-! ## READ_TEMPERATURE -/

variable {s : State}

theorem readTemperature_of_not_ok (h : (issue .isConnected s).flags.ok = false) :
    readTemperature s = (none, issue .isConnected s) := by
  rw [readTemperature, hostRead_status_ok, if_neg (Bool.eq_false_iff.mp h)]

theorem readTemperature_of_ok (h : (issue .isConnected s).flags.ok = true) :
    readTemperature s =
      (rawTemperature (issue .isConnected s).sp[0] (issue .isConnected s).sp[1], issue .isConnected s) := by
  rw [readTemperature, hostRead_status_ok, if_pos h, hostRead, hostRead, State.readReg_address _ rfl,
    State.readReg_address _ rfl, State.reg, State.reg, getD_of_lt _ (by decide), getD_of_lt _ (by decide)]

/-! ## Readings and sentinels -/

theorem celsius_strictMono : StrictMono celsius := fun a b hab => by
  have hcast : (a : ℚ) < b := Int.cast_lt.mpr hab
  rw [celsius, celsius]
  linarith

theorem fahrenheit_strictMono : StrictMono fahrenheit := fun a b hab => by
  have hcast : (a : ℚ) < b := Int.cast_lt.mpr hab
  rw [fahrenheit, fahrenheit]
  linarith

/-- 46_host_sequences.md R160: what lies outside the readings of a unit is none of them. -/
theorem reading_ne_of_out {f : Int → ℚ} (hf : StrictMono f) {v : ℚ}
    (hout : v ≤ f Config.rawDisconnected ∨ f Config.rawMax < v) {raw : Int} (hlow : Config.rawDisconnected < raw)
    (hhigh : raw ≤ Config.rawMax) : f raw ≠ v := by
  obtain hbelow | habove := hout
  · exact (hbelow.trans_lt (hf hlow)).ne'
  · exact ((hf.monotone hhigh).trans_lt habove).ne

end Sys2Proof.Machine
end

section
/-! SUPPORT. PARSE_ADDRESS (46_host_sequences.md R161): digits read back, and what its success says of the length. -/

namespace Sys2Proof.Machine

/-- The two lower-case digits of a byte, the high one first. -/
def byteDigits (v : Byte) : List Char := [hexDigit (v.toNat / 16), hexDigit (v.toNat % 16)]

theorem addressDigits_eq (A : Address) : addressDigits A = A.toList.flatMap byteDigits := rfl

theorem hexVal_hexDigit : ∀ n < 16, hexVal (hexDigit n) = some n := by decide

theorem hexPairs_byteDigits_append (v : Byte) (rest : List Char) :
    hexPairs (byteDigits v ++ rest) = (hexPairs rest).map (v :: ·) := by
  have hhigh := hexVal_hexDigit (v.toNat / 16) (Nat.div_lt_of_lt_mul v.isLt)
  have hlow := hexVal_hexDigit (v.toNat % 16) (Nat.mod_lt _ (by decide))
  simp only [byteDigits, List.cons_append, List.nil_append, hexPairs, hhigh, hlow]
  cases hexPairs rest with
  | none => rfl
  | some bytes => simp [Nat.div_add_mod]

theorem hexPairs_flatMap_byteDigits (vs : List Byte) : hexPairs (vs.flatMap byteDigits) = some vs := by
  induction vs with
  | nil => rfl
  | cons v vs ih => rw [List.flatMap_cons, hexPairs_byteDigits_append, ih, Option.map_some]

theorem length_of_hexPairs {digits : List Char} {bytes : List Byte} (h : hexPairs digits = some bytes) :
    digits.length = 2 * bytes.length := by
  induction digits using hexPairs.induct generalizing bytes with
  | case1 hi lo rest ih =>
    simp only [hexPairs, Option.bind_eq_bind, Option.bind_eq_some_iff] at h
    obtain ⟨_, -, _, -, tail, htail, hbytes⟩ := h
    obtain rfl := Option.some.inj hbytes
    rw [List.length_cons, List.length_cons, ih htail, List.length_cons, Nat.mul_succ]
  | case2 =>
    obtain rfl := Option.some.inj h
    rfl
  | case3 c => cases h

theorem parseAddress_of_hexPairs {digits : List Char} {A : Address} (h : hexPairs digits = some A.toList) :
    parseAddress digits = some A := by
  obtain ⟨⟨bytes⟩, hlength⟩ := A
  match bytes, hlength with
  | [a, b, c, d, e, f, g, i], _ => rw [parseAddress, h]; rfl

theorem length_of_parseAddress {digits : List Char} {A : Address} (h : parseAddress digits = some A) :
    digits.length = 16 := by
  rw [parseAddress] at h
  split at h
  · next hpairs => exact length_of_hexPairs hpairs
  · cases h

end Sys2Proof.Machine
end

section
/-! PROOFS. The statements about the host sequences (46_host_sequences.md). -/

namespace Sys2Proof.Machine

/-- Settles O53, from the enumeration of any bus: the list has no repetition, and its members are the addresses there are. -/
theorem enumerateSmallBuses : Obligations.EnumerateSmallBuses := by
  refine ⟨fun s max hbus => ?_, fun s d max hbus => ?_⟩
  · obtain ⟨-, hmem⟩ := enumerationFindsEveryDevice s [] max hbus (Nat.zero_le max)
    refine List.eq_nil_iff_forall_not_mem.mpr fun A hA => ?_
    obtain ⟨d, hd, -⟩ := (hmem A).mp hA
    exact List.not_mem_nil hd
  · obtain ⟨hsorted, hmem⟩ := enumerationFindsEveryDevice s [d] (max + 1) hbus (Nat.le_add_left 1 max)
    have hnodup := hsorted.imp addressBefore.ne
    have hsame := (List.perm_ext_iff_of_nodup hnodup (List.nodup_singleton d.rom)).mpr fun A =>
      (hmem A).trans (List.mem_map (l := [d])).symm
    exact List.perm_singleton.mp hsame

/-- Settles O55: the zeros pass as `conversionPoll_zeros` says, and the turn that reads the one ends the wait. -/
theorem conversionPollStopsAtTheFirstOne : Obligations.ConversionPollStopsAtTheFirstOne := by
  intro s res n d ms rest hbus hlength hearly
  obtain ⟨t, hrequest, hsent, ht⟩ := requestConversion_of_presence res ms hbus
  have htake : (ms.take n).length = n := List.length_take_of_le hlength.le
  rw [← htake] at ht
  obtain ⟨u, hzeros, hpolled, hu⟩ := conversionPoll_zeros (ms[n] :: ms.drop (n + 1)) ht hearly
  obtain ⟨htrace, hend⟩ := issue_readBit_free hu
  refine ⟨issue .readBit u, ?_, ?_, hend⟩
  · rw [← List.drop_eq_getElem_cons hlength, List.take_append_drop, List.drop_eq_getElem_cons hlength] at hzeros
    rw [hrequest, hzeros, conversionPoll_completed (by rw [hu]; rfl)]
  · rw [htrace, hpolled, hsent, htake]

/-- Settles O56: the early turns pass as `conversionPoll_zeros` says, and the first late clock reading ends the wait. -/
theorem conversionPollTimesOut : Obligations.ConversionPollTimesOut := by
  refine ⟨⟨rfl, rfl, rfl, rfl⟩, fun s res late d early more rest hbus hearly hlate => ?_⟩
  obtain ⟨t, hrequest, hsent, ht⟩ := requestConversion_of_presence res (early ++ late :: more) hbus
  rw [List.replicate_succ', List.append_assoc] at ht
  obtain ⟨u, hzeros, hpolled, hu⟩ := conversionPoll_zeros (late :: more) ht hearly
  obtain ⟨htrace, hend⟩ := issue_readBit_free hu
  refine ⟨issue .readBit u, ?_, ?_, hend⟩
  · rw [hrequest, hzeros, conversionPoll_timedOut (by rw [hu]; rfl) hlate]
  · rw [htrace, hpolled, hsent, List.replicate_succ', List.append_assoc]

/-- Settles O58, by the layout of the raw value, which makes it a multiple of 8. -/
theorem rawTemperatureLayout : Obligations.RawTemperatureLayout := by
  intro lsb msb
  refine ⟨raw16_eq_append lsb msb, rawTemperature_eq_none_iff, fun raw hraw => ?_⟩
  obtain ⟨hlow, rfl⟩ := rawTemperature_eq_some_iff.mp hraw
  obtain ⟨k, hk⟩ := eight_dvd_raw16_toInt lsb msb
  refine ⟨rfl, hlow, k, hk, ?_⟩
  rw [celsius, hk, Int.cast_mul]
  ring

/-- Settles O59: both accessors convert what READ_TEMPERATURE answers, and readings keep to the range the sentinels avoid. -/
theorem sentinelsTellFailureFromReadings : Obligations.SentinelsTellFailureFromReadings := by
  rintro d s _ _ hd rfl rfl
  refine ⟨hd.distinct, fun hfail => ?_, fun hok hlow => ?_⟩
  · have hnone : readTemperature s = (none, issue .isConnected s) := by
      cases hok : (issue .isConnected s).flags.ok with
      | false => exact readTemperature_of_not_ok hok
      | true =>
        have hraw := hfail.resolve_left (by simp [hok])
        rw [readTemperature_of_ok hok, rawTemperature_eq_none_iff.mpr hraw]
    rw [readCelsius, readFahrenheit, hnone]
    exact ⟨rfl, rfl⟩
  · have hreading := rawTemperature_eq_some_iff.mpr ⟨hlow, rfl⟩
    have hhigh := raw16_toInt_le_rawMax (issue .isConnected s).sp[0] (issue .isConnected s).sp[1]
    rw [readCelsius, readFahrenheit, readTemperature_of_ok hok, hreading]
    exact ⟨rfl, rfl, reading_ne_of_out celsius_strictMono hd.celsiusOut hlow hhigh,
      reading_ne_of_out fahrenheit_strictMono hd.fahrenheitOut hlow hhigh⟩

/-- Settles O60: each pair of digits is its byte again, and a parse takes two digits for each of eight bytes. -/
theorem parseAddressReadsItsDigits : Obligations.ParseAddressReadsItsDigits := by
  refine ⟨fun A => ?_, fun digits hlength => ?_⟩
  · rw [addressDigits_eq]
    exact parseAddress_of_hexPairs (hexPairs_flatMap_byteDigits A.toList)
  · exact Option.eq_none_iff_forall_not_mem.mpr fun A hA => hlength (length_of_parseAddress hA)

end Sys2Proof.Machine
end

section
/-! SUPPORT. What is recorded of errors and misuse (60_exceptions.md R170, R175): the codes of ERR, what each event and each step
do to FAULT, and that an event always has an answer. -/

namespace Sys2Proof.Machine

/-! ## The codes of ERR -/

theorem State.readReg_err (s : State) : s.readReg 0x02 = s.err.code.setWidth 8 :=
  s.readReg_address (r := .err) rfl

/-- 60_exceptions.md R170: codes 6 and 7 are reserved. -/
theorem ErrCode.code_setWidth_le (e : ErrCode) : e.code.setWidth 8 ≤ (0x05 : Byte) := by
  cases e <;> decide

/-! ## Events have an answer -/

theorem launchOpcode_next (v : Byte) (hold : Option Nat) (s : State) : ∃ t, launchOpcode v hold s = .next t := by
  cases hd : decodeOpcode v with
  | error e => exact ⟨_, launchOpcode_illegal s hold hd⟩
  | ok i =>
    cases hold with
    | none =>
      rw [launchOpcode_waiting s hd]
      exact exec_next i _
    | some k => exact ⟨_, launchOpcode_running s k hd⟩

theorem idleEvent_next (e : PortEvent) (s : State) : ∃ t, idleEvent e s = .next t := by
  obtain ⟨op, hold⟩ := e
  cases op with
  | write a v =>
    by_cases ha : a = 0x00
    · obtain ⟨t, ht⟩ := launchOpcode_next v hold s
      exact ⟨t, (if_pos ha).trans ht⟩
    · exact ⟨_, if_neg ha⟩
  | read a | resetInput asserted | busChange b => exact ⟨_, rfl⟩

theorem idleStep_next (s : State) : ∃ t, idleStep s = .next t := by
  unfold idleStep
  split
  · exact ⟨_, rfl⟩
  · exact idleEvent_next _ _

/-! ## What an event does to FAULT -/

/-- 60_exceptions.md R175: host misuse, by an event that meets the sequencer at `seq`: an illegal opcode written to CMD while
idle, or a write of a register while busy. -/
def PortEvent.IsMisuse (e : PortEvent) (seq : Seq) : Prop :=
  ∃ (a : BitVec 6) (v : Byte), e.op = .write a v ∧
    ((seq = .idle ∧ a = 0x00 ∧ ∃ err, decodeOpcode v = .error err) ∨ ((∃ r, seq = .run r) ∧ a.toNat < 0x24))

/-- What an event that meets the sequencer at `seq` can make of FAULT. -/
inductive FaultEffect (e : PortEvent) (seq : Seq) (before after : Bool) : Prop
  | kept (h : after = before)
  | misused (misuse : e.IsMisuse seq) (h : after = true)
  | cleared (reset : e.op = .resetInput true) (h : after = false)

variable {s t : State} {e : PortEvent}

theorem exec_fault {i : Instr} (h : exec i s = .next t) : t.flags.fault = s.flags.fault := by
  obtain ⟨u, hexec, hrow⟩ := exec_withinRow i s
  obtain rfl : u = t := Host.Outcome.next.inj (hexec.symm.trans h)
  rw [hrow]
  rfl

theorem launchOpcode_fault {v : Byte} {hold : Option Nat} (h : launchOpcode v hold s = .next t) :
    t.flags.fault = s.flags.fault ∨ (∃ err, decodeOpcode v = .error err) ∧ t.flags.fault = true := by
  cases hd : decodeOpcode v with
  | error err =>
    rw [launchOpcode_illegal s hold hd] at h
    cases h
    exact .inr ⟨⟨err, rfl⟩, rfl⟩
  | ok i =>
    left
    cases hold with
    | none =>
      rw [launchOpcode_waiting s hd] at h
      exact exec_fault (s := { s with cmd := v }) h
    | some k =>
      rw [launchOpcode_running s k hd] at h
      cases h
      rfl

/-- 70_reset_and_hazards.md R190: asserting the reset input clears FAULT; releasing one that is not asserted is no change. -/
theorem State.setReset_fault (s : State) {asserted : Bool} (he : e.op = .resetInput asserted) :
    FaultEffect e s.seq s.flags.fault (s.setReset asserted).flags.fault := by
  cases asserted with
  | false => exact .kept rfl
  | true => exact .cleared he rfl

theorem idleEvent_fault (hs : s.seq = .idle) (h : idleEvent e s = .next t) :
    FaultEffect e s.seq s.flags.fault t.flags.fault := by
  obtain ⟨op, hold⟩ := e
  cases op with
  | write a v =>
    by_cases ha : a = 0x00
    · have hlaunch : launchOpcode v hold s = .next t := (if_pos ha).symm.trans h
      obtain hkept | ⟨hillegal, hset⟩ := launchOpcode_fault hlaunch
      · exact .kept hkept
      · exact .misused ⟨a, v, rfl, .inl ⟨hs, ha, hillegal⟩⟩ hset
    · have hwrite : .next (s.writeReg a v) = Host.Outcome.next t := (if_neg ha).symm.trans h
      cases hwrite
      obtain ⟨_, _, _, _, _, _, _, _, _, _, hw⟩ := s.writeReg_changes a v
      exact .kept (by rw [hw])
  | read a | busChange b =>
    cases h
    exact .kept rfl
  | resetInput asserted =>
    cases h
    exact s.setReset_fault rfl

theorem State.busyWrite_reserved (s : State) {a : BitVec 6} (ha : regAt a = none) : s.busyWrite a = s := by
  simp only [State.busyWrite, ha]

theorem busyEvent_fault {r : SeqRegs} (e : PortEvent) (hs : s.seq = .run r) :
    FaultEffect e s.seq s.flags.fault (busyEvent e s).flags.fault := by
  obtain ⟨op, hold⟩ := e
  cases op with
  | write a v =>
    show FaultEffect _ _ _ (s.busyWrite a).flags.fault
    cases ha : regAt a with
    | none => exact .kept (by rw [s.busyWrite_reserved ha])
    | some x =>
      obtain ⟨hx, rfl, hlt⟩ := regAt_some ha
      exact .misused ⟨_, v, rfl, .inr ⟨⟨r, hs⟩, hlt⟩⟩ (by rw [s.busyWrite_register hx, State.misuse_flags])
  | read a =>
    obtain ⟨_, _, hr⟩ := s.busyRead_changes a
    exact .kept (congrArg (·.flags.fault) hr)
  | resetInput asserted => exact s.setReset_fault rfl
  | busChange b => exact .kept rfl

/-! ## What a step does to FAULT -/

/-- 10_state.md R34: FAULT is bit 7 of STATUS, which reads 0x00 of a block held in reset. -/
theorem State.Cleared.fault (h : s.Cleared) : s.flags.fault = false := by
  have hstatus : s.status = 0x00 := h.registers RegName.status.address
  have hbits := s.byteBits_status
  rw [hstatus] at hbits
  simp only [byteBits, List.cons.injEq] at hbits
  obtain ⟨-, -, -, -, -, -, -, hfault, -⟩ := hbits
  exact hfault.symm

theorem heldStep_fault (s : State) : (heldStep s).flags.fault = false := by
  obtain ⟨b, w, q, l, hheld, -⟩ := heldStep_spec s
  rw [hheld]
  rfl

/-- Out of reset only the event that a step takes, if it takes one, can change FAULT. -/
theorem step_fault (hn : s.rstIn = false) (h : step s = .next t) :
    t.flags.fault = s.flags.fault ∨
      ∃ e q, s.hostQ = e :: q ∧ (s.seq = .idle ∨ s.hostWait = some 0) ∧
        FaultEffect e s.seq s.flags.fault t.flags.fault := by
  obtain hs | ⟨r, hs⟩ := s.seq.idle_or_run
  · cases hq : s.hostQ with
    | nil =>
      rw [step_idle hn hs, idleStep, hq] at h
      cases h
      exact .inl rfl
    | cons e q =>
      rw [step_idle_event hn hs hq] at h
      exact .inr ⟨e, q, rfl, .inl hs, idleEvent_fault (s := s.taken e q) hs h⟩
  · rw [step_run hn hs] at h
    cases h
    unfold busyStep
    split
    next e q hw hq => exact .inr ⟨e, q, hq, .inr hw, busyEvent_fault (s := s.taken e q) e hs⟩
    next k _ => exact .inl (State.tick_effect { s with hostWait := some k }).fault
    next => exact .inl s.tick_effect.fault
    next => exact .inl s.tick_effect.fault

end Sys2Proof.Machine
end

section
/-! PROOFS. The statements about errors and misuse (60_exceptions.md). -/

namespace Sys2Proof.Machine

/-- Settles O18: a block held in reset has no FAULT to lose, and out of reset only an event asserting the reset input clears
it. -/
theorem faultIsSticky : Obligations.FaultIsSticky := by
  intro s t hinv hstep hset
  cases hn : s.rstIn with
  | true =>
    have hclear := (hinv.held hn).fault
    simp [hset] at hclear
  | false =>
    obtain hkept | ⟨⟨op, hold⟩, q, hq, hdue, heffect⟩ := step_fault hn hstep
    · exact .inl (hkept.trans hset)
    · cases heffect with
      | kept hkept => exact .inl (hkept.trans hset)
      | misused _ hnow => exact .inl hnow
      | cleared hreset _ =>
        obtain rfl : op = .resetInput true := hreset
        exact .inr ⟨hdue, hold, q, hq⟩

/-- Settles O19: a block held in reset sets nothing, and out of reset only an event that is misuse sets FAULT; one that meets
a running command was due. -/
theorem onlyMisuseSetsFault : Obligations.OnlyMisuseSetsFault := by
  intro s t hstep hclear hset
  cases hn : s.rstIn with
  | true =>
    rw [step_held hn] at hstep
    cases hstep
    simp [heldStep_fault] at hset
  | false =>
    refine ⟨rfl, ?_⟩
    obtain hkept | ⟨⟨op, hold⟩, q, hq, hdue, heffect⟩ := step_fault hn hstep
    · simp [hclear, hset] at hkept
    · cases heffect with
      | kept hkept => simp [hclear, hset] at hkept
      | cleared _ hnow => simp [hset] at hnow
      | misused hmisuse _ =>
        obtain ⟨a, v, hop, hkind⟩ := hmisuse
        obtain rfl : op = .write a v := hop
        refine ⟨a, v, hold, q, hq, hkind.imp id ?_⟩
        rintro ⟨⟨r, hr⟩, hlt⟩
        exact ⟨⟨r, hr⟩, hdue.resolve_left (by simp [hr]), hlt⟩

/-- Settles O11: the read answers the code of the error, which is at most 5. -/
theorem errorCodes : Obligations.ErrorCodes := by
  intro s h q hn hs hq
  refine ⟨_, step_read_idle hn hs hq, ?_⟩
  simp only [State.readReg_err, State.taken_err]
  have hcode : ∀ e, s.err = e → s.err.code.setWidth 8 = (e.code.setWidth 8 : Byte) := fun _ he => he ▸ rfl
  have hle := s.err.code_setWidth_le
  refine ⟨hcode _, hcode _, hcode _, hcode _, hcode _, hcode _, fun h6 => ?_, fun h7 => ?_⟩
  · exact absurd (h6 ▸ hle) (by decide)
  · exact absurd (h7 ▸ hle) (by decide)

/-- Settles O17, by what the step is: held in reset, idle, or running. -/
theorem everyStepAnswers : Obligations.EveryStepAnswers := by
  intro s
  cases hn : s.rstIn with
  | true => exact ⟨_, step_held hn⟩
  | false =>
    obtain hs | ⟨r, hs⟩ := s.seq.idle_or_run
    · rw [step_idle hn hs]
      exact idleStep_next s
    · exact ⟨_, step_run hn hs⟩

end Sys2Proof.Machine
end

section
/-! SUPPORT. Everything one step does to a block held in reset (70_reset_and_hazards.md R190), and what one leaves of a block
whose host waits for BUSY = 0 (R193). -/

namespace Sys2Proof.Machine

variable {s t : State} {e : PortEvent}

/-! ## Held in reset -/

theorem heldStep_nil (hq : s.hostQ = []) : heldStep s = s.hwReset := by
  unfold heldStep
  rw [hq]

theorem heldStep_cons {q : List PortEvent} (hq : s.hostQ = e :: q) : heldStep s = heldEvent e (s.taken e q) := by
  unfold heldStep
  rw [hq]

/-- 70_reset_and_hazards.md R190: the block is cleared and its event taken, and only the release of the reset input ends this
(`heldStep_spec` with the queue, the time and the input). -/
theorem heldStep_effect (hn : s.rstIn = true) :
    ∃ (b : Bool) (w : Option Nat) (l : Line),
      heldStep s = { s.hwReset with rstIn := b, hostWait := w, hostQ := s.hostQ.tail, line := l } ∧ l.owOe = false ∧
        l.trace = s.line.trace ∧ l.elapsed = s.line.elapsed ∧
        (b = false ↔ ∃ h q, s.hostQ = ⟨.resetInput false, h⟩ :: q) := by
  cases hq : s.hostQ with
  | nil =>
    refine ⟨s.rstIn, s.hostWait, { s.line with owOe := false }, ?_, rfl, rfl, rfl, by simp [hn]⟩
    rw [heldStep_nil hq, State.hwReset, hq]
    rfl
  | cons e q =>
    rw [heldStep_cons hq]
    obtain ⟨op, hold⟩ := e
    cases op with
    | write a v | read a | busChange b => exact ⟨s.rstIn, _, _, rfl, rfl, rfl, rfl, by simp [hn]⟩
    | resetInput asserted => exact ⟨asserted, _, _, rfl, rfl, rfl, rfl, by simp⟩

/-! ## A host that waits -/

/-- 20_memory.md R52, 30_encoding.md R76: a host that waits finds the block idle after its write of CMD, legal or not. -/
theorem launchOpcode_waiting_idle {v : Byte} (hs : s.seq = .idle) (h : launchOpcode v none s = .next t) :
    t.seq = .idle ∧ t.hostQ = s.hostQ := by
  cases hd : decodeOpcode v with
  | error err =>
    rw [launchOpcode_illegal s none hd] at h
    cases h
    exact ⟨hs, rfl⟩
  | ok i =>
    rw [launchOpcode_waiting s hd] at h
    obtain ⟨u, hexec, hrow⟩ := exec_withinRow i { s with cmd := v }
    obtain rfl : u = t := Host.Outcome.next.inj (hexec.symm.trans h)
    rw [hrow]
    exact ⟨rfl, rfl⟩

theorem idleEvent_waiting_idle (hw : e.hold = none) (hs : s.seq = .idle) (h : idleEvent e s = .next t) :
    t.seq = .idle ∧ t.hostQ = s.hostQ := by
  obtain ⟨op, hold⟩ := e
  obtain rfl : hold = none := hw
  cases op with
  | write a v =>
    by_cases ha : a = 0x00
    · exact launchOpcode_waiting_idle hs ((if_pos ha).symm.trans h)
    · have hwrite : .next (s.writeReg a v) = Host.Outcome.next t := (if_neg ha).symm.trans h
      cases hwrite
      obtain ⟨_, _, _, _, _, _, _, _, _, _, hchanged⟩ := s.writeReg_changes a v
      rw [hchanged]
      exact ⟨hs, rfl⟩
  | read a | busChange b =>
    cases h
    exact ⟨hs, rfl⟩
  | resetInput asserted =>
    cases h
    cases asserted with
    | false => exact ⟨hs, rfl⟩
    | true => exact ⟨rfl, rfl⟩

/-- 70_reset_and_hazards.md R193: a step takes one event of a host that waits and leaves the block idle. -/
theorem step_serialized (hs : s.seq = .idle) (hser : s.serialized) (h : step s = .next t) :
    t.seq = .idle ∧ t.hostQ = s.hostQ.tail := by
  cases hn : s.rstIn with
  | true =>
    obtain ⟨b, w, l, hheld, -⟩ := heldStep_effect hn
    rw [step_held hn, hheld] at h
    cases h
    exact ⟨rfl, rfl⟩
  | false =>
    cases hq : s.hostQ with
    | nil =>
      rw [step_idle hn hs, idleStep, hq] at h
      cases h
      exact ⟨hs, hq⟩
    | cons e q =>
      rw [step_idle_event hn hs hq] at h
      exact idleEvent_waiting_idle (s := s.taken e q) (hser e (by simp [hq])) hs h

end Sys2Proof.Machine
end

section
/-! PROOFS. The statements about hardware reset and the serialized host (70_reset_and_hazards.md R190, R193, R195). -/

namespace Sys2Proof.Machine

/-- Settles O12: idle or running, the step takes the event that asserts the reset input, which clears the block. -/
theorem hardwareResetClearsTheBlock : Obligations.HardwareResetClearsTheBlock := by
  intro s h q hn hdue hq
  have hstep : step s = .next ((s.taken ⟨.resetInput true, h⟩ q).setReset true) := by
    obtain hs | ⟨r, hs⟩ := s.seq.idle_or_run
    · exact step_idle_event hn hs hq
    · exact step_run_event hn hs (hdue.resolve_left (by simp [hs])) hq
  exact ⟨_, hstep, s.hwReset_cleared true h q { s.line with owOe := false } rfl, rfl, rfl, rfl, rfl, rfl⟩

/-- Settles O13, by everything a held step does. -/
theorem resetHoldsTheBlock : Obligations.ResetHoldsTheBlock := by
  intro s hn
  obtain ⟨b, w, l, hheld, hreleased, htrace, htime, hinput⟩ := heldStep_effect hn
  rw [step_held hn, hheld]
  exact ⟨_, rfl, s.hwReset_cleared b w _ l hreleased, rfl, htrace, htime, rfl, rfl, hinput⟩

/-- Settles O20: the pending events are fewer, and FAULT could only come from an illegal opcode or from a running command. -/
theorem serializedHostSeesNoFault : Obligations.SerializedHostSeesNoFault := by
  intro s t hs hser hclear hlegal hstep
  obtain ⟨hidle, hq⟩ := step_serialized hs hser hstep
  have hpending : ∀ e ∈ t.hostQ, e ∈ s.hostQ := fun e he => List.mem_of_mem_tail (hq ▸ he)
  refine ⟨hidle, fun e he => hser e (hpending e he), Bool.eq_false_iff.mpr fun hset => ?_,
    fun e he => hlegal e (hpending e he)⟩
  obtain ⟨-, a, v, h, q, hhead, hmisuse⟩ := onlyMisuseSetsFault s t hstep hclear hset
  obtain ⟨-, rfl, err, hillegal⟩ | ⟨⟨r, hrun⟩, -⟩ := hmisuse
  · obtain ⟨i, hi⟩ := hlegal ⟨.write 0x00 v, h⟩ (by simp [hhead]) v rfl
    simp [hi] at hillegal
  · simp [hs] at hrun

end Sys2Proof.Machine
end

section
/-! SUPPORT. Nominal line time (70_reset_and_hazards.md R200): the exchanges and the sum of DELAYs of each procedure of the line
driver, added up along the frames and the search. -/

namespace Sys2Proof.Machine

variable {p : Params} {s : State}

/-- What procedures one after the other take. -/
theorem Line.Takes.trans {l m n : Line} {j k a b : Nat} (h : l.Takes m j a) (h' : m.Takes n k b) :
    l.Takes n (j + k) (a + b) := by
  obtain ⟨hj, ha⟩ := h
  obtain ⟨hk, hb⟩ := h'
  exact ⟨by omega, by omega⟩

theorem Line.Takes.refl (l : Line) : l.Takes l 0 0 := ⟨rfl, rfl⟩

/-! ## Procedures of the line driver -/

section
variable (hp : p.dur = Durations.nominal)
include hp

theorem Line.busReset_takes (l : Line) : l.Takes (l.busReset p).2 1 960 := by
  rw [Line.busReset_eq, hp]
  exact ⟨List.length_append, rfl⟩

theorem Line.readBit_takes (l : Line) : l.Takes (l.readBit p).2 1 70 := by
  rw [Line.readBit_eq, hp]
  exact ⟨List.length_append, rfl⟩

/-- 41_transport.md R100: a written 1 and a written 0 take the same time. -/
theorem Line.writeBit_takes (b : Bool) (l : Line) : l.Takes (l.writeBit p b) 1 70 := by
  rw [Line.writeBit_eq, hp]
  exact ⟨List.length_append, by cases b <;> rfl⟩

theorem Line.writeByte_takes (v : Byte) (l : Line) : l.Takes (l.writeByte p v) 8 660 := by
  have htime : writeTime Durations.nominal = fun _ => 70 := funext fun b => by cases b <;> rfl
  refine ⟨by simp [txByte, byteBits_length], ?_⟩
  rw [Line.writeByte_elapsed, hp, htime]
  simp [byteBits_length, Durations.nominal]

theorem Line.writeBytes_takes {n : Nat} {vs : List Byte} (hn : vs.length = n) (l : Line) :
    l.Takes (l.writeBytes p vs) (8 * n) (660 * n) := by
  induction vs generalizing n l with
  | nil =>
    subst hn
    exact Line.Takes.refl _
  | cons v vs ih =>
    subst hn
    rw [Line.writeBytes_cons, List.length_cons, Nat.mul_succ, Nat.mul_succ, Nat.add_comm (8 * _), Nat.add_comm (660 * _)]
    exact (l.writeByte_takes hp v).trans (ih rfl (l.writeByte p v))

theorem Line.readByte_takes (l : Line) : l.Takes (l.readByte p).2 8 680 := by
  refine ⟨by simp [rxByte, byteBits_length], ?_⟩
  rw [Line.readByte_elapsed, hp]
  rfl

theorem Line.readPad_takes (k : Nat) (P : Pad) (l : Line) : l.Takes (l.readPad p k P).2 (8 * k) (680 * k) := by
  induction k generalizing P l with
  | zero => exact Line.Takes.refl _
  | succ k ih =>
    rw [Nat.mul_succ, Nat.mul_succ, Nat.add_comm (8 * k), Nat.add_comm (680 * k)]
    exact (l.readByte_takes hp).trans (ih _ _)

/-- 45_scratchpad.md R140. -/
theorem Line.select_takes (A : Address) (l : Line) : l.Takes (l.select p A) 72 5940 :=
  l.writeBytes_takes hp (n := 9) (by simp)

end

/-! ## Frames -/

section
variable (hp : s.params.dur = Durations.nominal)
include hp

theorem State.opened_takes : s.line.Takes s.opened.line 1 960 := s.line.busReset_takes hp

/-- 45_scratchpad.md R141 after its first reset. -/
theorem State.readFrame_takes : s.line.Takes s.readFrame.line 153 13680 :=
  (((s.line.select_takes hp s.addr).trans (Line.writeByte_takes hp s.params.cmdReadScratchpad _)).trans
    (Line.readPad_takes hp 9 s.sp _)).trans (Line.busReset_takes hp _)

/-- 45_scratchpad.md R142 after its first reset. -/
theorem State.writeFrame_takes : s.line.Takes s.writeFrame.line 105 9540 :=
  ((s.line.select_takes hp s.addr).trans
    (Line.writeBytes_takes hp (n := 4) rfl _)).trans (Line.busReset_takes hp _)

/-- 45_scratchpad.md R142, with and without presence. -/
theorem State.writeSp_takes :
    if s.writeSp.2.flags.presence then s.line.Takes s.writeSp.2.line 106 10500 else s.line.Takes s.writeSp.2.line 1 960 := by
  have hopen : s.line.Takes s.openFrame.2.line 1 960 := s.line.busReset_takes hp
  cases hpresence : s.openFrame.2.flags.presence with
  | false =>
    have hend : s.writeSp.2 = s.openFrame.2 := if_neg (Bool.eq_false_iff.mp hpresence)
    rw [hend, if_neg (Bool.eq_false_iff.mp hpresence)]
    exact hopen
  | true =>
    have hend : s.writeSp.2 = s.openFrame.2.writeFrame := if_pos hpresence
    have hkept : s.openFrame.2.writeFrame.flags = s.openFrame.2.flags := rfl
    rw [hend, hkept, if_pos hpresence]
    exact hopen.trans (State.writeFrame_takes (s := s.openFrame.2) hp)

/-- 45_scratchpad.md R141, with presence. -/
theorem State.opened_readFrame_takes : s.line.Takes s.opened.readFrame.line 154 14640 :=
  (State.opened_takes hp).trans (State.readFrame_takes (s := s.opened) hp)

theorem State.opened_writeFrame_takes : s.line.Takes s.opened.writeFrame.line 106 10500 :=
  (State.opened_takes hp).trans (State.writeFrame_takes (s := s.opened) hp)

end

/-! ## Search -/

/-- From line state `l` to `m` some number of slots was made and nothing else, each in the 70 microseconds of a bit. -/
def Line.TakesSlots (l m : Line) : Prop := ∃ n, l.Takes m n (70 * n)

theorem Line.TakesSlots.trans {l m n : Line} : l.TakesSlots m → m.TakesSlots n → l.TakesSlots n
  | ⟨j, hj⟩, ⟨k, hk⟩ => ⟨j + k, Nat.mul_add 70 j k ▸ hj.trans hk⟩

/-- 44_search.md R127 step 4: the loop makes nothing but slots. -/
theorem State.traverse_takesSlots (k : Nat) (lastZero : BitVec 7) (s : State) (hp : s.params.dur = Durations.nominal) :
    s.line.TakesSlots (State.traverse k lastZero s).2.line := by
  induction k generalizing lastZero s with
  | zero => exact ⟨0, Line.Takes.refl _⟩
  | succ k ih =>
    have hpair : s.line.TakesSlots ((s.line.readBit s.params).2.readBit s.params).2 :=
      ⟨2, (s.line.readBit_takes hp).trans (Line.readBit_takes hp _)⟩
    cases hab : s.line.bus.read.1 && (s.line.readBit s.params).2.bus.read.1 with
    | true =>
      obtain ⟨ha, hb⟩ := Bool.and_eq_true_iff.mp hab
      rw [State.traverse_abort s k lastZero ha hb]
      exact hpair
    | false =>
      rw [State.traverse_step s k lastZero rfl rfl rfl hab]
      exact (hpair.trans ⟨1, Line.writeBit_takes hp _ _⟩).trans (ih _ _ hp)

theorem positionsTrace_length (ans : Nat → Bool × Bool) (R : Address) (js : List Nat) :
    (positionsTrace ans R js).length = 3 * js.length := by
  simp [positionsTrace, positionTrace, Nat.mul_comm]

/-- 70_reset_and_hazards.md R200: a pass through `m` positions, found (`m = 64`) or aborted at the next one. -/
theorem State.SearchPass.takes {c : Byte} {ans : Nat → Bool × Bool} {m : Nat} {v : BitVec 4} {R : Address} {l : Line}
    (h : s.SearchPass c ans m v R l) (hp : s.params.dur = Durations.nominal) :
    s.line.Takes l (9 + (3 * m + (abortTrace m).length)) (1620 + 70 * (3 * m + (abortTrace m).length)) := by
  have hstart := (State.opened_takes hp).trans (Line.writeByte_takes hp c s.opened.line)
  obtain ⟨n, hslots⟩ := State.traverse_takesSlots 64 0 (s.opened.onLine fun l => l.writeByte s.params c) hp
  have hline : ((s.opened.onLine fun l => l.writeByte s.params c).traverse 64 0).2.line = l := by
    rw [← State.searched, h.searched]
  rw [hline] at hslots
  obtain ⟨hcount, htime⟩ := hstart.trans hslots
  have htrace := congrArg List.length h.trace
  simp only [List.length_append, positionsTrace_length, List.length_range, txByte, List.length_map, byteBits_length,
    List.length_singleton] at htrace
  obtain rfl : n = 3 * m + (abortTrace m).length := by omega
  exact ⟨hcount, htime⟩

/-! ## The write-back of SET_RESOLUTION -/

theorem State.writeBack_err (t : State) (pat : Byte) : (t.writeBack pat).err = t.err := by
  by_cases hsame : t.sp[4] = pat
  · rw [State.writeBack_same t hsame]
    rfl
  · obtain ⟨l, again, last, hback, -⟩ := State.writeBack_changed t hsame
    rw [hback]

theorem State.writeBack_of_ne {pat : Byte} (h : s.sp[4] ≠ pat) :
    s.writeBack pat = ((s.loadWriteBack pat).writeSp).2.done true := by
  rw [← getD_of_lt s.sp (show 4 < 9 by decide)] at h
  exact if_pos (bne_iff_ne.mpr h)

/-- 45_scratchpad.md R146: no write-back, one whose reset finds presence, or one that ends there. -/
theorem State.writeBack_takes (pat : Byte) (hp : s.params.dur = Durations.nominal) :
    if s.sp[4] = pat then s.line.Takes (s.writeBack pat).line 0 0
    else if (s.writeBack pat).flags.presence then s.line.Takes (s.writeBack pat).line 106 10500
    else s.line.Takes (s.writeBack pat).line 1 960 := by
  by_cases h : s.sp[4] = pat
  · rw [if_pos h, State.writeBack_same s h]
    exact Line.Takes.refl _
  · rw [if_neg h, State.writeBack_of_ne h]
    exact State.writeSp_takes (s := s.loadWriteBack pat) hp

end Sys2Proof.Machine
end

section
/-! SUPPORT. The line time of each command, for each way it can end (70_reset_and_hazards.md R200). -/

namespace Sys2Proof.Machine

variable {i : Instr} {s t : State}

/-- 30_encoding.md R77: a command without bus activity leaves the line alone. -/
theorem exec_line_of_noExchange (hi : i ∈ [Instr.crcInit, .crcByte, .checkAddr, .checkSp, .searchReset])
    (hexec : exec i s = .next t) : t.line = s.line := by
  obtain ⟨u, hu, hrow⟩ := exec_withinRow i s
  obtain rfl : u = t := Host.Outcome.next.inj (hu.symm.trans hexec)
  exact (congrArg State.line hrow).trans (if_pos hi)

/-- 45_scratchpad.md R147: until the checks have passed or failed no error stands, and the configuration is as it was. -/
theorem State.checked_err_params (hpresence : s.line.bus.reset.1 = true) :
    s.opened.readFrame.checkPad.err = .none ∧ s.opened.readFrame.checkPad.params = s.params := by
  obtain ⟨P, l, q, hchecked, -⟩ := s.checked_spec hpresence
  rw [hchecked]
  exact ⟨rfl, rfl⟩

section
variable (hp : s.params.dur = Durations.nominal)
include hp

theorem exec_busReset_takes (hexec : exec .busReset s = .next t) : s.line.Takes t.line 1 960 := by
  rw [exec_busReset] at hexec
  obtain rfl := Host.Outcome.next.inj hexec
  split <;> exact State.opened_takes hp

theorem exec_search_takes (hi : i ∈ [Instr.searchRom, .searchAlarm]) (hexec : exec i s = .next t) :
    (s.ldf = true → s.line.Takes t.line 0 0) ∧
    (t.flags.ok = true → s.line.Takes t.line 201 15060) ∧
    (t.err = .busAbsent → s.line.Takes t.line 1 960) ∧
    (t.err = .searchAborted →
      ∃ n, 1 ≤ n ∧ n ≤ 64 ∧ s.line.Takes t.line (11 + 3 * (n - 1)) (1760 + 210 * (n - 1))) := by
  cases hldf : s.ldf with
  | true =>
    cases (exec_search_exhausted hi hldf).symm.trans hexec
    exact ⟨fun _ => Line.Takes.refl _, nofun, nofun, nofun⟩
  | false =>
    refine ⟨nofun, ?_⟩
    cases hpresence : s.line.bus.reset.1 with
    | false =>
      cases (exec_search_noPresence hi hldf hpresence).symm.trans hexec
      exact ⟨nofun, fun _ => State.opened_takes hp, nofun⟩
    | true =>
      obtain ⟨c, hc⟩ := exists_searchByte (s := s) hi
      obtain ⟨ans, m, v, R, l, hpass⟩ := s.exists_searchPass c
      have htakes := hpass.takes hp
      by_cases hm : m = 64
      · subst hm
        cases (exec_search_found hc hldf hpresence hpass).symm.trans hexec
        exact ⟨fun _ => htakes, nofun, nofun⟩
      · have hsearched := hpass.searched
        rw [if_neg hm] at hsearched
        cases (exec_search_aborted hc hldf hpresence (congrArg Prod.fst hsearched)
          (congrArg Prod.snd hsearched)).symm.trans hexec
        have hlt : m < 64 := Nat.lt_of_le_of_ne hpass.le hm
        obtain ⟨hcount, htime⟩ := htakes
        have habort : (abortTrace m).length = 2 := by simp [abortTrace, hm]
        rw [habort] at hcount htime
        exact ⟨nofun, nofun, fun _ => ⟨m + 1, by omega, by omega, hcount.trans (by omega), htime.trans (by omega)⟩⟩

/-- 42_reset_presence.md R112: a scratchpad command that finds no presence takes its reset. -/
theorem exec_scratchpad_takes_absent
    (hi : i ∈ [Instr.readScratchpad, .writeScratchpad, .isConnected, .setResolution])
    (hpresence : s.line.bus.reset.1 = false) (hexec : exec i s = .next t) :
    t.err = .busAbsent ∧ s.line.Takes t.line 1 960 := by
  cases (exec_scratchpad_noPresence hi hpresence).symm.trans hexec
  exact ⟨rfl, State.opened_takes hp⟩

theorem exec_scratchpad_takes {n time : Nat}
    (hi : i ∈ [Instr.readScratchpad, .writeScratchpad, .isConnected, .setResolution]) (hexec : exec i s = .next t)
    (h : s.line.bus.reset.1 = true → t.err ≠ .busAbsent ∧ s.line.Takes t.line n time) :
    if t.err = .busAbsent then s.line.Takes t.line 1 960 else s.line.Takes t.line n time := by
  cases hpresence : s.line.bus.reset.1 with
  | false =>
    obtain ⟨herr, habsent⟩ := exec_scratchpad_takes_absent hp hi hpresence hexec
    rwa [if_pos herr]
  | true =>
    obtain ⟨herr, hframe⟩ := h hpresence
    rwa [if_neg herr]

theorem exec_readScratchpad_takes (hexec : exec .readScratchpad s = .next t) :
    if t.err = .busAbsent then s.line.Takes t.line 1 960 else s.line.Takes t.line 154 14640 := by
  refine exec_scratchpad_takes hp (by decide) hexec fun hpresence => ?_
  cases (exec_readScratchpad_presence hpresence).symm.trans hexec
  exact ⟨nofun, State.opened_readFrame_takes hp⟩

theorem exec_writeScratchpad_takes (hexec : exec .writeScratchpad s = .next t) :
    if t.err = .busAbsent then s.line.Takes t.line 1 960 else s.line.Takes t.line 106 10500 := by
  refine exec_scratchpad_takes hp (by decide) hexec fun hpresence => ?_
  cases (exec_writeScratchpad_presence hpresence).symm.trans hexec
  exact ⟨nofun, State.opened_writeFrame_takes hp⟩

/-- 45_scratchpad.md R141, R147: the checks after the read frame make no exchange and take no time. -/
theorem State.checked_takes : s.line.Takes s.opened.readFrame.checkPad.line 154 14640 := State.opened_readFrame_takes hp

/-- 45_scratchpad.md R145, R147: the tests may pass or fail. -/
theorem exec_isConnected_takes (hexec : exec .isConnected s = .next t) :
    if t.err = .busAbsent then s.line.Takes t.line 1 960 else s.line.Takes t.line 154 14640 := by
  refine exec_scratchpad_takes hp (by decide) hexec fun hpresence => ?_
  have hframe := State.checked_takes hp
  obtain ⟨herr, -⟩ := State.checked_err_params hpresence
  have hfailed := exec_connected_failed (s := s) (.head _) hpresence
  have hpassed := exec_isConnected_passed hpresence
  generalize s.opened.readFrame.checkPad = c at *
  cases htests : c.padPassed with
  | false =>
    cases (hfailed htests).symm.trans hexec
    exact ⟨nofun, hframe⟩
  | true =>
    cases (hpassed htests).symm.trans hexec
    exact ⟨by simp [herr], hframe⟩

theorem exec_setResolution_takes (hexec : exec .setResolution s = .next t) :
    (t.err = .busAbsent → s.line.Takes t.line 1 960) ∧
    (t.err = .integrityFailure → s.line.Takes t.line 154 14640) ∧
    (t.err = .none →
      if t.sp[4] = s.requestedPattern then s.line.Takes t.line 154 14640
      else if t.flags.presence then s.line.Takes t.line 260 25140
      else s.line.Takes t.line 155 15600) := by
  cases hpresence : s.line.bus.reset.1 with
  | false =>
    obtain ⟨herr, htakes⟩ := exec_scratchpad_takes_absent hp (by decide) hpresence hexec
    simp [herr, htakes]
  | true =>
    have hframe := State.checked_takes hp
    obtain ⟨herr, hparams⟩ := State.checked_err_params hpresence
    have hfailed := exec_connected_failed (s := s) (.tail _ (.head _)) hpresence
    have hpassed := exec_setResolution_passed hpresence
    generalize s.opened.readFrame.checkPad = c at *
    cases htests : c.padPassed with
    | false =>
      cases (hfailed htests).symm.trans hexec
      exact ⟨nofun, fun _ => hframe, nofun⟩
    | true =>
      cases (hpassed htests).symm.trans hexec
      have hback := State.writeBack_takes (s := c) s.requestedPattern (by rw [hparams]; exact hp)
      obtain ⟨hsp, -⟩ := c.writeBack_sp_crc s.requestedPattern
      rw [State.writeBack_err, hsp, herr]
      refine ⟨nofun, nofun, fun _ => ?_⟩
      split_ifs at hback ⊢ <;> exact hframe.trans hback

end

end Sys2Proof.Machine
end

section
/-! PROOFS. The statement about the nominal line time (70_reset_and_hazards.md R200). -/

namespace Sys2Proof.Machine

/-- Settles O51: command by command, what its procedures take. -/
theorem nominalCommandTimes : Obligations.NominalCommandTimes := by
  intro i s t hp hexec
  cases i with
  | writeBit =>
    cases (exec_writeBit s).symm.trans hexec
    exact s.line.writeBit_takes hp _
  | readBit =>
    cases (exec_readBit s).symm.trans hexec
    exact s.line.readBit_takes hp
  | writeByte =>
    cases (exec_writeByte s).symm.trans hexec
    exact s.line.writeByte_takes hp _
  | readByte =>
    cases (exec_readByte s).symm.trans hexec
    exact s.line.readByte_takes hp
  | busReset => exact exec_busReset_takes hp hexec
  | crcInit | crcByte | checkAddr | checkSp | searchReset =>
    show s.line.Takes t.line 0 0
    rw [exec_line_of_noExchange (by decide) hexec]
    exact Line.Takes.refl _
  | searchRom | searchAlarm => exact exec_search_takes hp (by decide) hexec
  | readScratchpad => exact exec_readScratchpad_takes hp hexec
  | writeScratchpad => exact exec_writeScratchpad_takes hp hexec
  | isConnected => exact exec_isConnected_takes hp hexec
  | setResolution => exact exec_setResolution_takes hp hexec

end Sys2Proof.Machine
end
